-- ==== Sys2Proof/Word.lean ====
section
/-! DEFINITION. The plain data types of the MOZLZ4-FRAMER: bytes, byte sequences, 32-bit words (spec 00_scope.md R5, R6).
Every quantity is unsigned (R6), and a length is a natural number: 40_datapath_primitives.md R85 allows it, since no sum
or difference of the hardware wraps. -/

namespace Sys2Proof

/-- A byte is 8 bits (R5). -/
abbrev Byte := BitVec 8

/-- A byte sequence, index 0 first (R6). -/
abbrev Bytes := List Byte

/-- A 32-bit register or the UncompressedSize field (R11, R17, R20, R62). -/
abbrev Word32 := BitVec 32

/-- `trunc_32(v)` of R6. -/
abbrev trunc32 (v : Nat) : Word32 := BitVec.ofNat 32 v

end Sys2Proof
end

