-- ==== Sys2Proof/Config.lean ====
section
/-! DEFINITION. What is fixed for the life of one framer and is not state (10_state.md R10): the constants of the Container
format, the parameters LENW, BCEW and BC of 00_scope.md R5 with the laws 44_block_codec_port.md demands of them, and the
free values. -/

namespace Sys2Proof

/-- The Magic constant `6d 6f 7a 4c 7a 34 30 00` (R5, R61). -/
abbrev magic : Bytes := [0x6d, 0x6f, 0x7a, 0x4c, 0x7a, 0x34, 0x30, 0x00]

/-- MAGIC_LEN, SIZE_LEN and HDR_LEN of R5. -/
abbrev magicLen : Nat := 8
@[inherit_doc magicLen] abbrev sizeLen : Nat := 4
@[inherit_doc magicLen] abbrev hdrLen : Nat := 12

/-- SIZE_MAX = 2^32 − 1 (R5). -/
abbrev sizeMax : Nat := 4294967295

/-- What `compress_block` and `decompress_block` answer (R145): the bytes written, or the opaque failure value. -/
inductive Answer where
  | ok (w : Bytes)
  | fail (e : Nat)
deriving DecidableEq, Repr

/-- The open parameters of R5 together with the laws a configuration must keep. A configuration that breaks
BC-FIT-C (R149), BC-FIT-D (R153) or a width constraint of R5 is outside the model, so it is no value of this type.
BC-PURE (R154) holds because the fields are functions. BC-VALID (R151) and BC-BOUND (R150) are not among the laws every
command needs (R233, U1): they are `Config.Valid` and `Config.BoundSuffices`, premises where a claim rests on them. -/
structure Config where
  /-- LENW, the width in bits of every length and cursor register. -/
  lenw : Nat
  /-- BCEW, the width in bits of the failure value. -/
  bcew : Nat
  /-- `BC.compress_bound` (R146). -/
  compressBound : Nat → Nat
  /-- `BC.compress_block` (R147). -/
  compressBlock : Bytes → Nat → Answer
  /-- `BC.decompress_block` (R148). -/
  decompressBlock : Bytes → Nat → Answer
  lenw_ge : 33 ≤ lenw
  bcew_ge : 1 ≤ bcew
  bound_fits : ∀ n, n ≤ sizeMax → 12 + compressBound n < 2 ^ lenw
  compress_fits : ∀ src cap p, compressBlock src cap = .ok p → p.length ≤ cap
  decompress_fits : ∀ src target w, decompressBlock src target = .ok w → w.length ≤ target
  compress_error_fits : ∀ src cap e, compressBlock src cap = .fail e → e < 2 ^ bcew
  decompress_error_fits : ∀ src target e, decompressBlock src target = .fail e → e < 2 ^ bcew

/-- Law BC-VALID (R151): what the compressor emits, the decompressor with the right target length turns back. -/
def Config.Valid (c : Config) : Prop :=
  ∀ src cap p, c.compressBlock src cap = .ok p → c.decompressBlock p src.length = .ok src

/-- Law BC-BOUND (R150), by log 25: with the bound or more of room the compressor does not fail for want of room, so where it
fails there it fails with any larger room as well. Other failures are not excluded. -/
def Config.BoundSuffices (c : Config) : Prop :=
  ∀ src cap more e, c.compressBound src.length ≤ cap → cap ≤ more → c.compressBlock src cap = .fail e →
    ∃ e', c.compressBlock src more = .fail e'

/-- The hardware's own configuration, which nothing in the model can evaluate. Every lawful configuration is a
possible value of it (log 9). -/
opaque Config.choice : Option Config

/-- Stands in only where `Config.choice` is `none`, so that `Config.hw` needs no axiom: a lawful codec that always fails. -/
def Config.standIn : Config where
  lenw := 64
  bcew := 32
  compressBound := fun n => n
  compressBlock := fun _ _ => .fail 0
  decompressBlock := fun _ _ => .fail 0
  lenw_ge := by decide
  bcew_ge := by decide
  bound_fits := by intro n h; norm_num [sizeMax] at h ⊢; omega
  compress_fits := by intro _ _ _ h; cases h
  decompress_fits := by intro _ _ _ h; cases h
  compress_error_fits := by intro _ _ e h; cases h; norm_num
  decompress_error_fits := by intro _ _ e h; cases h; norm_num

/-- The configuration of the framer `step` and `exec` describe: any lawful one (log 9). -/
def Config.hw : Config := Config.choice.getD Config.standIn

/-- Free values (log 8): BC_RSP.len after a failed call (R26, U13). -/
opaque Config.freeLen : Nat → Nat

/-- Free values (log 8): BC_RSP.errinfo after a successful call (R26, U13). -/
opaque Config.freeErrinfo : Nat → Nat

end Sys2Proof
end

