-- ==== Sys2Proof/Syntax.lean ====
section
/-! DEFINITION. The instructions of spec/opcode_table.json, one constructor per row (30_encoding.md R60, R70, R74). -/

namespace Sys2Proof

/-- One row of the opcode table each. The four commands and the two port operations carry no operands in their words:
their operands are implicit (R78). CONTAINER_HDR carries the UncompressedSize field (R62). -/
inductive Instr where
  /-- Command code 00 (R169). -/
  | nop
  /-- Command code 01 (R100). -/
  | encode
  /-- Command code 10 (R120). -/
  | decode
  /-- Command code 11 (R140). -/
  | sniff
  /-- Port operation 0 (R147). -/
  | compress
  /-- Port operation 1 (R148). -/
  | decompress
  /-- The 12-byte header of a Container that declares `size` (R60). -/
  | containerHdr (size : Word32)
deriving DecidableEq, Repr

end Sys2Proof
end

