-- ==== Sys2Proof/Decode.lean ====
section
/-! DEFINITION. The encodings of 30_encoding.md: decoder, encoder, and the little-endian size field
(40_datapath_primitives.md R89, R91). Decoding is total and rejects by name. -/

namespace Sys2Proof

/-- `LE32_ENC` (R89): the four bytes of a 32-bit value, least significant first. -/
def le32Enc (v : Word32) : Bytes :=
  [v.extractLsb' 0 8, v.extractLsb' 8 8, v.extractLsb' 16 8, v.extractLsb' 24 8]

/-- `LE32_DEC` (R91): `b[0] + 2^8·b[1] + 2^16·b[2] + 2^24·b[3]`, unsigned. -/
def le32Dec (b0 b1 b2 b3 : Byte) : Word32 :=
  BitVec.ofNat 32 (b0.toNat + 256 * b1.toNat + 65536 * b2.toNat + 16777216 * b3.toNat)

/-- The size field at the head of a byte sequence; nothing where fewer than four bytes are left (R62). -/
def sizeField : Bytes → Option Word32
  | b0 :: b1 :: b2 :: b3 :: _ => some (le32Dec b0 b1 b2 b3)
  | _ => none

/-- A word of one of the three formats of the opcode table: the CMD register (R70), BC_REQ.op (R74), the bytes of a
Container (R60). -/
inductive Encoded where
  | cmd (word : Word32)
  | portOp (op : BitVec 1)
  | container (bytes : Bytes)
deriving DecidableEq, Repr

/-- The illegal Container encodings of R67 that concern the header. The command and port spaces have none (R70, R74). -/
inductive DecodeError where
  /-- Fewer than 8 bytes. -/
  | headerTooShort
  /-- The first 8 bytes differ from Magic. -/
  | badMagic
  /-- Magic followed by fewer than 4 bytes. -/
  | truncatedSize
deriving DecidableEq, Repr

/-- The command word is `CMD[1:0]`; the reserved bits 31:2 are not looked at (R70, R75). -/
def decodeCommand (word : Word32) : Instr :=
  let code := word.extractLsb' 0 2
  if code = 0b00#2 then .nop
  else if code = 0b01#2 then .encode
  else if code = 0b10#2 then .decode
  else .sniff

/-- `BC_REQ.op` (R74). -/
def decodePortOp (op : BitVec 1) : Instr :=
  if op = 0b0#1 then .compress else .decompress

/-- The header of a Container (R60, R61, R62, R67); bytes after offset 11 are Payload and are not looked at. -/
def decodeHeader (bytes : Bytes) : Except DecodeError Instr :=
  if bytes.length < magicLen then .error .headerTooShort
  else if bytes.take magicLen ≠ magic then .error .badMagic
  else
    match sizeField (bytes.drop magicLen) with
    | some size => .ok (.containerHdr size)
    | none => .error .truncatedSize

/-- The decoder: total on every word of every format. -/
def decode : Encoded → Except DecodeError Instr
  | .cmd word => .ok (decodeCommand word)
  | .portOp op => .ok (decodePortOp op)
  | .container bytes => decodeHeader bytes

/-- The encoder: the word the tables of 30_encoding.md give each instruction (R60, R70, R74). -/
def encode : Instr → Encoded
  | .nop => .cmd 0b00#32
  | .encode => .cmd 0b01#32
  | .decode => .cmd 0b10#32
  | .sniff => .cmd 0b11#32
  | .compress => .portOp 0b0#1
  | .decompress => .portOp 0b1#1
  | .containerHdr size => .container (magic ++ le32Enc size)

/-- Twelve bytes of `w`, byte 0 in its low 8 bits. -/
def bytesLowFirst (w : Nat) : Bytes :=
  (List.range hdrLen).map fun i => BitVec.ofNat 8 (w >>> (8 * i))

/-- Twelve bytes of `w`, byte 0 in bits 95:88, as the opcode table's CONTAINER_HDR row numbers them. -/
def bytesHighFirst (w : Nat) : Bytes := (bytesLowFirst w).reverse

/-- The header bytes a 96-bit table word stands for. The row writes its match with byte 0 highest and the host counts bits
with byte 0 lowest: a word that begins with Magic in the second numbering is read so, any other in the first
(no word begins with Magic in both; log 15). -/
def headerOfTableWord (w : Nat) : Bytes :=
  if (bytesLowFirst w).take magicLen = magic then bytesLowFirst w else bytesHighFirst w

/-- An opcode-table word by its width: 1 bit is a port operation, up to 32 bits the CMD register, 96 bits a header.
In whole bytes the port operations and the commands have one width, and a word of 8 bits is read as a command (log 15). -/
def encodedOfTableWord (nbits w : Nat) : Option Encoded :=
  if nbits = 1 then some (.portOp (BitVec.ofNat 1 w))
  else if nbits ≤ 32 then some (.cmd (BitVec.ofNat 32 w))
  else if nbits = 96 then some (.container (headerOfTableWord w))
  else none

/-- What the decoder reads from a word of the opcode table. -/
def decodeTableWord (nbits w : Nat) : Option Instr :=
  match encodedOfTableWord nbits w with
  | none => none
  | some e =>
    match decode e with
    | .ok i => some i
    | .error _ => none

end Sys2Proof
end

