-- ==== Sys2Proof/Script.lean ====
section
/-! DEFINITION. The host's side as syntax: the statements of a host script (30_encoding.md R76, R77) and the single host
accesses they come down to. A host access is not an instruction of the framer. -/

namespace Sys2Proof

/-- The three byte spaces (10_state.md R24). -/
inductive Space where
  | inp
  | out
  | magicRom
deriving DecidableEq, Repr

/-- A statement of a host script: the four primitive statements of R76, then the pseudo-statements of R77, then the
reset input (R230), which is a move of the host too (R165). -/
inductive HostStmt where
  | wr (reg value : Nat)
  | rd (reg : Nat)
  | wb (space : Space) (index : Nat) (byte : Byte)
  | rb (space : Space) (index : Nat)
  | load (bytes : Bytes)
  | setlen (len : Nat)
  | wait
  | nop
  | encode
  | decode
  | sniff
  | copyback
  | roundtrip
  | ifMatch (stmt : HostStmt)
  | ifOk (stmt : HostStmt)
  | reset
deriving DecidableEq, Repr

/-- What the host does in one turn: exactly one access (R76). The accesses below `wait` are the running forms of the
pseudo-statements whose next access depends on a value read (log 17): `ifMatch k` and `ifOk k` read STAT and drop
the next `k` accesses unless the bit they test says otherwise, `copyback` reads OUT_LEN, `copyRead i m` reads `OUT[i]` of
`m` bytes, `copyWrite i m b` writes that byte to `IN[i]`. -/
inductive HostOp where
  | wr (reg value : Nat)
  | rd (reg : Nat)
  | wb (space : Space) (index : Nat) (byte : Byte)
  | rb (space : Space) (index : Nat)
  | resetPin
  | wait
  | ifMatch (skip : Nat)
  | ifOk (skip : Nat)
  | copyback
  | copyRead (index len : Nat)
  | copyWrite (index len : Nat) (byte : Byte)
deriving DecidableEq, Repr

end Sys2Proof
end

