-- ==== Sys2Proof/Machine/State.lean ====
section
/-! DEFINITION. The state of one MOZLZ4-FRAMER (10_state.md R10) as plain data, its value after reset (R30), and the
reasons a step can stop. -/

namespace Sys2Proof.Machine

/-- PHASE, the program counter (30_encoding.md R72). The unused codes 14 and 15 do not exist (U17). -/
inductive Phase where
  | idle
  | e1Size
  | e2Alloc
  | e3Hdr
  | e4Empty
  | e5Comp
  | e5Wait
  | d1Magic
  | d2Size
  | d3Empty
  | d4Decomp
  | d4Wait
  | s1Magic
  | done
deriving DecidableEq, Repr

/-- STAT.STATUS (30_encoding.md R71). Codes 6 and 7 do not exist (U17). -/
inductive Status where
  | ok
  | invalidFormat
  | sizeMismatch
  | sizeOverflow
  | compressionFailed
  | decompressionFailed
deriving DecidableEq, Repr

/-- The five error kinds with the values each records (60_exceptions.md R200). -/
inductive ErrorKind where
  | invalidFormat
  | sizeMismatch (expected : Word32) (actual : Nat)
  | sizeOverflow
  | compressionFailed (e : Nat)
  | decompressionFailed (e : Nat)
deriving DecidableEq, Repr

/-- The three agents (00_scope.md R9). -/
inductive Agent where
  | host
  | framer
  | engine
deriving DecidableEq, Repr

/-- A byte space that can be written: the bytes that hold a value, by index, indices strictly rising (log 6, log 7). -/
abbrev Memory := List Host.Cell

/-- MAGIC_ROM (10_state.md R24): a constant, so a type of one value. `MagicRom.byte` in Machine/Ops.lean reads it. -/
structure MagicRom where
deriving DecidableEq, Repr

/-- BC_REQ (10_state.md R25). -/
structure BcReq where
  valid : Bool
  op : BitVec 1
  srcOff : Nat
  srcLen : Nat
  dstOff : Nat
  dstCap : Nat
deriving DecidableEq, Repr

/-- BC_RSP (10_state.md R26). -/
structure BcRsp where
  valid : Bool
  fail : Bool
  len : Nat
  errinfo : Nat
deriving DecidableEq, Repr

/-- The complete state of one instance (10_state.md R10), then four fields of the model's own. -/
structure State where
  /-- CMD, register 0 (R11). -/
  cmd : Word32
  /-- STAT.BUSY (R13). -/
  busy : Bool
  /-- STAT.DONE (R13). -/
  done : Bool
  /-- STAT.MATCH (R13). -/
  matched : Bool
  /-- STAT.STATUS (R13, R71). -/
  status : Status
  /-- IN_LEN, register 3 (R14). -/
  inLen : Nat
  /-- OUT_LEN, register 4 (R15). -/
  outLen : Nat
  /-- ERR_EXPECTED, register 5 (R17). -/
  errExpected : Word32
  /-- ERR_ACTUAL, register 6 (R18). -/
  errActual : Nat
  /-- BC_ERRINFO, register 7 (R19). -/
  bcErrinfo : Nat
  /-- PHASE (R16). -/
  phase : Phase
  /-- CMD_L (R22). -/
  cmdL : BitVec 2
  /-- N (R20). -/
  n : Nat
  /-- SIZE (R20). -/
  size : Word32
  /-- CAP (R20). -/
  cap : Nat
  /-- IN_POS (R21). -/
  inPos : Nat
  /-- OUT_POS (R21). -/
  outPos : Nat
  /-- IN (R24). -/
  inp : Memory
  /-- OUT (R24). -/
  out : Memory
  /-- MAGIC_ROM (R24). -/
  rom : MagicRom
  /-- BC_REQ (R25). -/
  bcReq : BcReq
  /-- BC_RSP (R26). -/
  bcRsp : BcRsp
  /-- Model's own: how many free values have been drawn (log 8). -/
  fresh : Nat
  /-- Model's own: the agents that move next, the next one first (log 1). -/
  turns : List Agent
  /-- Model's own: the host accesses still to be made, the next one first (log 2). -/
  script : List HostOp
  /-- Model's own: the values host reads returned, the last one first (log 2). -/
  replies : List Nat
deriving DecidableEq, Repr

/-- Why the machine stops where it has no meaning to go on with. Every one is safe: the hardware does no more than the
model where it stops. -/
inductive Fault where
  /-- The framer (D1_MAGIC, D2_SIZE, S1_MAGIC), the engine or the host reads a byte of IN that holds no value
  (20_memory.md R44, 70_reset_and_hazards.md R244, U8). Safe. -/
  | inByteHasNoValue
  /-- The framer (D2_SIZE) or the engine would read a byte of IN at or above N (20_memory.md R44, U8); no reachable state has a
  step that does. Safe. -/
  | inReadBeyondN
  /-- The host reads a byte of OUT below OUT_LEN that holds no value; no reachable state has one. Safe. -/
  | outByteHasNoValue
  /-- A host access at an index outside its space (10_state.md R24). Safe. -/
  | noSuchIndex
  /-- BUSY with no agent able to move and no host access left: the run has not ended (45_command_control.md R173). Safe. -/
  | stuck
deriving DecidableEq, Repr

/-- What the model gives no meaning to. Every one is safe: the spec gives these no meaning either. -/
inductive Refusal where
  /-- An instruction without a meaning, by its mnemonic, raised by `exec`. Safe. -/
  | notModelled (mnemonic : String)
  /-- The host writes a byte of IN while BUSY (70_reset_and_hazards.md R240). Safe. -/
  | hostWroteInWhileBusy
  /-- The host reads OUT outside the exposed part (70_reset_and_hazards.md R241). Safe. -/
  | hostReadHiddenOut
  /-- The host writes a byte of OUT, which is no move (45_command_control.md R165). Safe. -/
  | hostWroteOut
  /-- The host writes a byte of MAGIC_ROM, which nobody writes (10_state.md R24). Safe. -/
  | hostWroteMagicRom
  /-- The host writes to IN_LEN a value of more than LENW bits, which cannot be presented (D30). Safe. -/
  | valueTooWide
  /-- A Container header where no phase writes or reads one: CONTAINER_HDR is no command (log 13). Safe. -/
  | headerOutOfPlace
deriving DecidableEq, Repr

/-- The state right after reset (10_state.md R30). N, SIZE, CAP, IN_POS, OUT_POS (log 4) and the payload fields of the port
records (log 5) are unspecified there and are 0 here; IN and OUT hold no byte (log 6, log 7). -/
def State.reset : State where
  cmd := 0
  busy := false
  done := false
  matched := false
  status := .ok
  inLen := 0
  outLen := 0
  errExpected := 0
  errActual := 0
  bcErrinfo := 0
  phase := .idle
  cmdL := 0
  n := 0
  size := 0
  cap := 0
  inPos := 0
  outPos := 0
  inp := []
  out := []
  rom := ⟨⟩
  bcReq := ⟨false, 0, 0, 0, 0, 0⟩
  bcRsp := ⟨false, false, 0, 0⟩
  fresh := 0
  turns := []
  script := []
  replies := []

/-- What a step or a meaning answers. -/
abbrev Outcome := Host.Outcome State Fault Refusal

end Sys2Proof.Machine
end

