-- ==== Sys2Proof/Machine/Ops.lean ====
section
/-! DEFINITION. The named operations over the byte spaces and the registers: reading and writing bytes (00_scope.md R7), START's
register effects (45_command_control.md R166), the success completion (R170), the failure completion, which is how this
hardware takes an exception (60_exceptions.md R206), reset (70_reset_and_hazards.md R230), and the port records. -/

namespace Sys2Proof.Machine

/-- The byte at an index, if it holds a value. -/
def Memory.read : Memory → Nat → Option Byte
  | [], _ => none
  | (k, v) :: m, i => if k = i then some v else Memory.read m i

/-- Stores one byte, keeping the indices strictly rising. -/
def Memory.write : Memory → Nat → Byte → Memory
  | [], i, b => [(i, b)]
  | (k, v) :: m, i, b =>
    if i < k then (i, b) :: (k, v) :: m
    else if i = k then (i, b) :: m
    else (k, v) :: Memory.write m i b

/-- `MemRead(space, addr, n)` (R7), lowest index first; nothing if one of the bytes holds no value. -/
def Memory.readBytes (m : Memory) (addr : Nat) : Nat → Option Bytes
  | 0 => some []
  | k + 1 =>
    match m.read addr with
    | none => none
    | some b =>
      match Memory.readBytes m (addr + 1) k with
      | none => none
      | some bs => some (b :: bs)

/-- `MemWrite(space, addr, len(bs), bs)` (R7). -/
def Memory.writeBytes (m : Memory) (addr : Nat) : Bytes → Memory
  | [] => m
  | b :: bs => Memory.writeBytes (m.write addr b) (addr + 1) bs

/-- Makes the `len` bytes from `lo` unspecified: they hold no value any more (R156, log 7). -/
def Memory.forget (m : Memory) (lo len : Nat) : Memory :=
  m.filter fun cell => decide (cell.1 < lo) || decide (lo + len ≤ cell.1)

/-- The canonical form: indices strictly rising. An unlisted index holds no value, so no listed cell equals one. -/
def Memory.wf (m : Memory) : Bool := decide (m.Pairwise fun a b => a.1 < b.1)

/-- `MAGIC_ROM[i] == MAGIC[i]` for `i` in 0 to 7, always (R24); there is no index 8. -/
def MagicRom.byte (_ : MagicRom) (i : Nat) : Option Byte := magic[i]?

/-- `MemRead(MAGIC_ROM, 0, 8)`. -/
def MagicRom.bytes (_ : MagicRom) : Bytes := magic

/-- `PHASE <- p` (R6, R16). -/
def State.goto (p : Phase) (s : State) : State := { s with phase := p }

/-- The register effects of an accepted START (R166) for a command code and its first phase (R168). SIZE and CAP are not
written, and neither are CMD, IN_LEN, IN and OUT. CMD_L gets the code of the command that runs (log 12). That SIZE and CAP (log
23), the payload fields of the port (log 22) and the bytes of OUT, no longer exposed (log 24), keep what they held is the model's
choice: the spec calls those values unspecified. -/
def State.launch (code : BitVec 2) (first : Phase) (s : State) : State :=
  { s with
    cmdL := code
    n := s.inLen
    status := .ok
    matched := false
    done := false
    outLen := 0
    errExpected := 0
    errActual := 0
    bcErrinfo := 0
    inPos := 0
    outPos := 0
    bcReq := { s.bcReq with valid := false }
    bcRsp := { s.bcRsp with valid := false }
    busy := true
    phase := first }

/-- `complete(len)`, the success completion (R170). MATCH and the error registers keep their values. That the bytes of OUT
from OUT_LEN on keep theirs is the model's choice (log 24). -/
def State.complete (len : Nat) (s : State) : State :=
  { s with status := .ok, outLen := len, busy := false, done := true, phase := .done }

/-- The status code of an error kind (R71, R200). -/
def ErrorKind.status : ErrorKind → Status
  | .invalidFormat => .invalidFormat
  | .sizeMismatch _ _ => .sizeMismatch
  | .sizeOverflow => .sizeOverflow
  | .compressionFailed _ => .compressionFailed
  | .decompressionFailed _ => .decompressionFailed

/-- What an error kind leaves in ERR_EXPECTED, given what stands there (R206). -/
def ErrorKind.expected : ErrorKind → Word32 → Word32
  | .invalidFormat, old => old
  | .sizeMismatch expected _, _ => expected
  | .sizeOverflow, old => old
  | .compressionFailed _, old => old
  | .decompressionFailed _, old => old

/-- What an error kind leaves in ERR_ACTUAL, given what stands there (R206). -/
def ErrorKind.actual : ErrorKind → Nat → Nat
  | .invalidFormat, old => old
  | .sizeMismatch _ actual, _ => actual
  | .sizeOverflow, old => old
  | .compressionFailed _, old => old
  | .decompressionFailed _, old => old

/-- What an error kind leaves in BC_ERRINFO, given what stands there (R204 to R206): the collaborator's value, unchanged. -/
def ErrorKind.errinfo : ErrorKind → Nat → Nat
  | .invalidFormat, old => old
  | .sizeMismatch _ _, old => old
  | .sizeOverflow, old => old
  | .compressionFailed e, _ => e
  | .decompressionFailed e, _ => e

/-- `raise K(info)`, the failure completion (R206): the whole of taking an exception on this hardware. No state is saved and
there is nothing to return to (R209): the next START clears what it recorded. That the bytes of OUT, none of them exposed, keep
their values is the model's choice (log 24). -/
def State.raise (k : ErrorKind) (s : State) : State :=
  { s with
    status := k.status
    errExpected := k.expected s.errExpected
    errActual := k.actual s.errActual
    bcErrinfo := k.errinfo s.bcErrinfo
    outLen := 0
    busy := false
    done := true
    phase := .done }

/-- Posts a request on the port (R105, R124). -/
def State.post (req : BcReq) (s : State) : State := { s with bcReq := req }

/-- Consumes the response: both valid bits are cleared (R106, R125, R155). That the payload fields keep their last values is the
model's choice (U13, log 22). -/
def State.consume (s : State) : State :=
  { s with bcReq := { s.bcReq with valid := false }, bcRsp := { s.bcRsp with valid := false } }

/-- What the engine writes for one answer of the collaborator (R152, R156): the returned bytes at the head of the destination
window, the rest of the window unspecified (log 7), and the response. The field the answer does not give is a free value
of its width (U13, log 8). -/
def State.answer (c : Config) (a : Answer) (s : State) : State :=
  match a with
  | .ok w =>
    { s with
      out := (s.out.forget s.bcReq.dstOff s.bcReq.dstCap).writeBytes s.bcReq.dstOff w
      bcRsp := ⟨true, false, w.length, Config.freeErrinfo s.fresh % 2 ^ c.bcew⟩
      fresh := s.fresh + 1 }
  | .fail e =>
    { s with
      out := s.out.forget s.bcReq.dstOff s.bcReq.dstCap
      bcRsp := ⟨true, true, Config.freeLen s.fresh % 2 ^ c.lenw, e⟩
      fresh := s.fresh + 1 }

/-- Writes the header of a Container that declares `size` and goes on to E4_EMPTY (R103). -/
def State.putHeader (size : Word32) (s : State) : State :=
  { s with
    out := (s.out.writeBytes 0 s.rom.bytes).writeBytes magicLen (le32Enc size)
    size := size
    outPos := hdrLen
    phase := .e4Empty }

/-- Takes the size field of a header and goes on to D3_EMPTY (R122). -/
def State.takeSize (size : Word32) (s : State) : State :=
  { s with size := size, inPos := hdrLen, phase := .d3Empty }

/-- Reset (R230, R232): every piece of the spec's state at its reset value, the engine with it. What the host and the schedule
still have to do, and what the host has read, is not the framer's state and stays (log 16). -/
def State.resetMove (s : State) : State :=
  { State.reset with fresh := s.fresh, turns := s.turns, script := s.script, replies := s.replies }

/-- A host read returns a value; nothing of the framer changes (R165). -/
def State.reply (v : Nat) (s : State) : State := { s with replies := v :: s.replies }

/-- The head of the schedule is used up (log 1). -/
def State.takeTurn (s : State) : State := { s with turns := s.turns.tail }

/-- The state an outcome goes on with, if it does. -/
def next? : Outcome → Option State
  | .next s => some s
  | .fault _ => none
  | .refused _ => none

end Sys2Proof.Machine
end

