-- ==== Sys2Proof/Machine/Operands.lean ====
section
/-! DEFINITION. The datapath primitives on a command's implicit operands (40_datapath_primitives.md) and the byte ranges of IN
the framer and the engine reach (20_memory.md R40, R44, R54). -/

namespace Sys2Proof.Machine

/-- `MAGIC_MATCH(IN, n)` (R86). Fewer than 8 bytes give 0 and no byte is read; nothing if one of the 8 bytes read holds no
value (log 6). -/
def magicMatch (m : Memory) (n : Nat) : Option Bool :=
  if n < magicLen then some false
  else
    match m.readBytes 0 magicLen with
    | none => none
    | some b => some (decide (b = magic))

/-- `SIZE_FITS(n)` (R88). -/
def sizeFits (n : Nat) : Bool := decide (n ≤ sizeMax)

/-- `SIZE_PRESENT(n, pos)`: at least 4 bytes remain after `pos` (R90). -/
def sizePresent (n pos : Nat) : Bool := decide (sizeLen ≤ n - pos)

/-- The `len` bytes of IN from `addr` lie below N (R44): a read at or above N is a fault, and a read of no byte is none. -/
def insideInput (n addr len : Nat) : Bool := decide (len = 0) || decide (addr + len ≤ n)

/-- `LE32_DEC(MemRead(IN, 8, 4))` (R91, R122). -/
def sizeAt (m : Memory) : Option Word32 :=
  match m.readBytes magicLen sizeLen with
  | none => none
  | some b => sizeField b

/-- The header at the head of the input, read as an instruction where the input has one (R60). -/
def headerAt (m : Memory) (n : Nat) : Option Instr :=
  if n < hdrLen then none
  else
    match m.readBytes 0 hdrLen with
    | none => none
    | some b =>
      match decode (.container b) with
      | .ok i => some i
      | .error _ => none

/-- The source bytes of an outstanding request: `IN[src_off .. src_off + src_len)` (R152). -/
def sourceBytes (s : State) : Option Bytes := s.inp.readBytes s.bcReq.srcOff s.bcReq.srcLen

/-- The exposed output: `OUT[0..OUT_LEN)` while DONE, and nothing else of OUT (R53). -/
def exposedOutput (s : State) : Option Bytes :=
  if s.done then s.out.readBytes 0 s.outLen else none

end Sys2Proof.Machine
end

