-- ==== Sys2Proof/Machine/BlockCodec.lean ====
section
/-! DEFINITION. The block-codec engine (44_block_codec_port.md): COMPRESS and DECOMPRESS as its one step (R147, R148, R152). -/

namespace Sys2Proof.Machine

/-- The engine has a step iff a request is outstanding and not yet answered (R152). -/
def engineReady (s : State) : Bool := s.bcReq.valid && !s.bcRsp.valid

/-- BCE_STEP (R152) with the collaborator's function `f`. It reads IN below N only (R44). With no unanswered
request the engine has no step and nothing changes (log 14). -/
def engineStep (c : Config) (f : Bytes → Nat → Answer) (s : State) : Outcome :=
  if engineReady s then
    if insideInput s.n s.bcReq.srcOff s.bcReq.srcLen then
      match sourceBytes s with
      | none => .fault .inByteHasNoValue
      | some src => .next (s.answer c (f src s.bcReq.dstCap))
    else .fault .inReadBeyondN
  else .next s

/-- COMPRESS on a framer of configuration `c`. -/
def compressStep (c : Config) (s : State) : Outcome := engineStep c c.compressBlock s

/-- DECOMPRESS on a framer of configuration `c`. -/
def decompressStep (c : Config) (s : State) : Outcome := engineStep c c.decompressBlock s

/-- The meaning of COMPRESS. -/
def execCompress (s : State) : Outcome := compressStep Config.hw s

/-- The meaning of DECOMPRESS. -/
def execDecompress (s : State) : Outcome := decompressStep Config.hw s

end Sys2Proof.Machine
end

