-- ==== Sys2Proof/Machine/Flags.lean ====
section
/-! DEFINITION. The flags and predicates of 10_state.md R23, the codes of STATUS, PHASE and the commands (30_encoding.md R70 to R72),
and the STAT word (R13). There are no arithmetic flags. -/

namespace Sys2Proof.Machine

/-- The STATUS code (R71). -/
def Status.code : Status → BitVec 3
  | .ok => 0
  | .invalidFormat => 1
  | .sizeMismatch => 2
  | .sizeOverflow => 3
  | .compressionFailed => 4
  | .decompressionFailed => 5

/-- The PHASE code (R72). -/
def Phase.code : Phase → BitVec 4
  | .idle => 0
  | .e1Size => 1
  | .e2Alloc => 2
  | .e3Hdr => 3
  | .e4Empty => 4
  | .e5Comp => 5
  | .e5Wait => 6
  | .d1Magic => 7
  | .d2Size => 8
  | .d3Empty => 9
  | .d4Decomp => 10
  | .d4Wait => 11
  | .s1Magic => 12
  | .done => 13

/-- The command a phase belongs to (R72); IDLE and DONE belong to none. -/
def Phase.command : Phase → Option Instr
  | .idle => none
  | .e1Size => some .encode
  | .e2Alloc => some .encode
  | .e3Hdr => some .encode
  | .e4Empty => some .encode
  | .e5Comp => some .encode
  | .e5Wait => some .encode
  | .d1Magic => some .decode
  | .d2Size => some .decode
  | .d3Empty => some .decode
  | .d4Decomp => some .decode
  | .d4Wait => some .decode
  | .s1Magic => some .sniff
  | .done => none

/-- The two phases that wait for a response (R167). -/
def Phase.waits : Phase → Bool
  | .e5Wait => true
  | .d4Wait => true
  | .idle => false
  | .e1Size => false
  | .e2Alloc => false
  | .e3Hdr => false
  | .e4Empty => false
  | .e5Comp => false
  | .d1Magic => false
  | .d2Size => false
  | .d3Empty => false
  | .d4Decomp => false
  | .s1Magic => false
  | .done => false

/-- OVF: `N > SIZE_MAX` (R23). -/
def ovf (s : State) : Bool := !sizeFits s.n

/-- EMPTY_IN: `N == 0` (R23). -/
def emptyIn (s : State) : Bool := decide (s.n = 0)

/-- MAGIC_OK (R23); nothing if a byte it reads holds no value. -/
def magicOk (s : State) : Option Bool := magicMatch s.inp s.n

/-- SIZE_PRESENT (R23). -/
def sizeIsPresent (s : State) : Bool := sizePresent s.n s.inPos

/-- ZERO_SIZE: `SIZE == 0` (R23). -/
def zeroSize (s : State) : Bool := decide (s.size = 0)

/-- BC_FAIL: `BC_RSP.fail == 1` (R23). -/
def bcFail (s : State) : Bool := s.bcRsp.fail

/-- LEN_EQ: `BC_RSP.len == zext_LENW(SIZE)`, an equality and no inequality (R23, R94). -/
def lenEq (s : State) : Bool := decide (s.bcRsp.len = s.size.toNat)

/-- The STAT register as the host reads it (R13): BUSY in bit 0, DONE in bit 1, MATCH in bit 2, STATUS in bits 6:4, the
reserved bits 0 (R75). -/
def statWord (s : State) : Word32 :=
  (s.status.code.setWidth 32 <<< 4) ||| ((BitVec.ofBool s.matched).setWidth 32 <<< 2)
    ||| ((BitVec.ofBool s.done).setWidth 32 <<< 1) ||| (BitVec.ofBool s.busy).setWidth 32

end Sys2Proof.Machine
end

