-- ==== Sys2Proof/Machine/Control.lean ====
section
/-! DEFINITION. NOP (45_command_control.md R169) and the common shape of the commands: START at a framer that is not busy, else
the step of the phase (R166, R167). -/

namespace Sys2Proof.Machine

/-- NOP: `complete(0)` performed in the same step as START (R168, R169). START while BUSY is ignored (R166). -/
def nopStep (s : State) : Outcome :=
  if s.busy then .next s else .next ((s.launch 0b00 .done).complete 0)

/-- The meaning of NOP. -/
def execNop (s : State) : Outcome := nopStep s

end Sys2Proof.Machine
end

