-- ==== Sys2Proof/Machine/FrameAssembler.lean ====
section
/-! DEFINITION. ENCODE, the frame assembler (41_encode.md R100 to R106), phase by phase. -/

namespace Sys2Proof.Machine

/-- E1_SIZE (R101). -/
def e1Size (s : State) : State :=
  if ovf s then s.raise .sizeOverflow else s.goto .e2Alloc

/-- E2_ALLOC (R102). -/
def e2Alloc (c : Config) (s : State) : State :=
  { s with cap := hdrLen + c.compressBound s.n, phase := .e3Hdr }

/-- E3_HDR (R103). -/
def e3Hdr (s : State) : State := s.putHeader (trunc32 s.n)

/-- E4_EMPTY (R104). -/
def e4Empty (s : State) : State :=
  if emptyIn s then s.complete s.outPos else s.goto .e5Comp

/-- The request of E5_COMP: the whole input, and the output from the end of the header to the capacity (R105). -/
def compressRequest (s : State) : BcReq := ⟨true, 0, 0, s.n, hdrLen, s.cap - hdrLen⟩

/-- E5_COMP (R105). -/
def e5Comp (s : State) : State := (s.post (compressRequest s)).goto .e5Wait

/-- E5_WAIT (R106); without a response the sequencer waits and nothing changes. -/
def e5Wait (s : State) : State :=
  if s.bcRsp.valid then
    if bcFail s then s.consume.raise (.compressionFailed s.bcRsp.errinfo)
    else ({ s.consume with outPos := hdrLen + s.bcRsp.len } : State).complete (hdrLen + s.bcRsp.len)
  else s

/-- One atomic step of ENCODE (log 12): START, or the step of the phase. Where another command is running this is a START
while BUSY, which is ignored (R166). -/
def encodeStep (c : Config) (s : State) : Outcome :=
  if s.busy then
    match s.phase with
    | .e1Size => .next (e1Size s)
    | .e2Alloc => .next (e2Alloc c s)
    | .e3Hdr => .next (e3Hdr s)
    | .e4Empty => .next (e4Empty s)
    | .e5Comp => .next (e5Comp s)
    | .e5Wait => .next (e5Wait s)
    | .idle => .next s
    | .d1Magic => .next s
    | .d2Size => .next s
    | .d3Empty => .next s
    | .d4Decomp => .next s
    | .d4Wait => .next s
    | .s1Magic => .next s
    | .done => .next s
  else .next (s.launch 0b01 .e1Size)

/-- The meaning of ENCODE. -/
def execEncode (s : State) : Outcome := encodeStep Config.hw s

end Sys2Proof.Machine
end

