-- ==== Sys2Proof/Machine/FrameDisassembler.lean ====
section
/-! DEFINITION. DECODE, the frame disassembler (42_decode.md R120 to R125), phase by phase. -/

namespace Sys2Proof.Machine

/-- D1_MAGIC (R121). -/
def d1Magic (s : State) : Outcome :=
  match magicOk s with
  | none => .fault .inByteHasNoValue
  | some false => .next (s.raise .invalidFormat)
  | some true => .next { s with inPos := magicLen, phase := .d2Size }

/-- D2_SIZE (R122). With the cursor at 8, where D1_MAGIC leaves it, a size field that is present lies below N (R44). -/
def d2Size (s : State) : Outcome :=
  if sizeIsPresent s then
    if insideInput s.n magicLen sizeLen then
      match sizeAt s.inp with
      | none => .fault .inByteHasNoValue
      | some size => .next (s.takeSize size)
    else .fault .inReadBeyondN
  else .next (s.raise .invalidFormat)

/-- D3_EMPTY (R123): a zero size ends the command whatever follows the header (R66). -/
def d3Empty (s : State) : State :=
  if zeroSize s then s.complete 0 else s.goto .d4Decomp

/-- The request of D4_DECOMP: the remaining input, and a window of exactly SIZE bytes (R124). -/
def decompressRequest (s : State) : BcReq := ⟨true, 1, hdrLen, s.n - hdrLen, 0, s.size.toNat⟩

/-- D4_DECOMP (R124). -/
def d4Decomp (s : State) : State :=
  (({ s with cap := s.size.toNat } : State).post (decompressRequest s)).goto .d4Wait

/-- D4_WAIT (R125): the failure test comes before the length test; without a response nothing changes. -/
def d4Wait (s : State) : State :=
  if s.bcRsp.valid then
    if bcFail s then s.consume.raise (.decompressionFailed s.bcRsp.errinfo)
    else if lenEq s then s.consume.complete s.size.toNat
    else s.consume.raise (.sizeMismatch s.size s.bcRsp.len)
  else s

/-- One atomic step of DECODE (log 12): START, or the step of the phase. Where another command is running this is a START
while BUSY, which is ignored (R166). -/
def decodeStep (s : State) : Outcome :=
  if s.busy then
    match s.phase with
    | .d1Magic => d1Magic s
    | .d2Size => d2Size s
    | .d3Empty => .next (d3Empty s)
    | .d4Decomp => .next (d4Decomp s)
    | .d4Wait => .next (d4Wait s)
    | .idle => .next s
    | .e1Size => .next s
    | .e2Alloc => .next s
    | .e3Hdr => .next s
    | .e4Empty => .next s
    | .e5Comp => .next s
    | .e5Wait => .next s
    | .s1Magic => .next s
    | .done => .next s
  else .next (s.launch 0b10 .d1Magic)

/-- The meaning of DECODE. -/
def execDecode (s : State) : Outcome := decodeStep s

end Sys2Proof.Machine
end

