-- ==== Sys2Proof/Machine/Header.lean ====
section
/-! DEFINITION. CONTAINER_HDR: what the framer does with the header of a Container that declares `size` (30_encoding.md R60): E3_HDR
writes it (41_encode.md R103), D1_MAGIC and S1_MAGIC find its Magic (42_decode.md R121, 43_sniff.md R141), D2_SIZE takes its
size field (42_decode.md R122). It is no command (log 13). -/

namespace Sys2Proof.Machine

/-- The step that writes or reads one header. -/
def containerHdrStep (size : Word32) (s : State) : Outcome :=
  if s.busy then
    match s.phase with
    | .e3Hdr => .next (s.putHeader size)
    | .d1Magic => .next { s with inPos := magicLen, phase := .d2Size }
    | .d2Size => .next (s.takeSize size)
    | .s1Magic => .next (({ s with matched := true } : State).complete 0)
    | .idle => .refused .headerOutOfPlace
    | .e1Size => .refused .headerOutOfPlace
    | .e2Alloc => .refused .headerOutOfPlace
    | .e4Empty => .refused .headerOutOfPlace
    | .e5Comp => .refused .headerOutOfPlace
    | .e5Wait => .refused .headerOutOfPlace
    | .d3Empty => .refused .headerOutOfPlace
    | .d4Decomp => .refused .headerOutOfPlace
    | .d4Wait => .refused .headerOutOfPlace
    | .done => .refused .headerOutOfPlace
  else .refused .headerOutOfPlace

/-- The meaning of CONTAINER_HDR. -/
def execContainerHdr (size : Word32) (s : State) : Outcome := containerHdrStep size s

end Sys2Proof.Machine
end

