-- ==== Sys2Proof/Machine/Sniff.lean ====
section
/-! DEFINITION. SNIFF, the magic validator alone (43_sniff.md R140, R141). -/

namespace Sys2Proof.Machine

/-- S1_MAGIC (R141). -/
def s1Magic (s : State) : Outcome :=
  match magicOk s with
  | none => .fault .inByteHasNoValue
  | some b => .next (({ s with matched := b } : State).complete 0)

/-- One atomic step of SNIFF (log 12): START, or S1_MAGIC. Where another command is running this is a START while BUSY, which
is ignored (R166). -/
def sniffStep (s : State) : Outcome :=
  if s.busy then
    match s.phase with
    | .s1Magic => s1Magic s
    | .idle => .next s
    | .e1Size => .next s
    | .e2Alloc => .next s
    | .e3Hdr => .next s
    | .e4Empty => .next s
    | .e5Comp => .next s
    | .e5Wait => .next s
    | .d1Magic => .next s
    | .d2Size => .next s
    | .d3Empty => .next s
    | .d4Decomp => .next s
    | .d4Wait => .next s
    | .done => .next s
  else .next (s.launch 0b11 .s1Magic)

/-- The meaning of SNIFF. -/
def execSniff (s : State) : Outcome := sniffStep s

end Sys2Proof.Machine
end

