-- ==== Sys2Proof/WellFormed.lean ====
section
/-! DEFINITION. Well-formedness of what the host and the opcode table can write down. -/

namespace Sys2Proof

/-- Every command code is legal (30_encoding.md R70), both port operations are (R74), and every 32-bit value of
UncompressedSize is (R62): the types of `Instr` already leave out every other word, so no term of it is ill-formed. -/
def Instr.wf : Instr → Bool
  | .nop => true
  | .encode => true
  | .decode => true
  | .sniff => true
  | .compress => true
  | .decompress => true
  | .containerHdr _ => true

/-- A host access is presentable on a framer of configuration `c` (20_memory.md R52, 10_state.md R14, R24): a value
written to IN_LEN fits LENW bits (D30), an index lies in its space, and no byte of OUT or MAGIC_ROM is written. -/
def HostOp.wf (c : Config) : HostOp → Bool
  | .wr reg value => reg != 3 || decide (value < 2 ^ c.lenw)
  | .rd _ => true
  | .wb .inp index _ => decide (index < 2 ^ c.lenw)
  | .wb .out _ _ => false
  | .wb .magicRom _ _ => false
  | .rb .magicRom index => decide (index < magicLen)
  | .rb .inp index => decide (index < 2 ^ c.lenw)
  | .rb .out index => decide (index < 2 ^ c.lenw)
  | .resetPin => true
  | .wait => true
  | .ifMatch _ => true
  | .ifOk _ => true
  | .copyback => true
  | .copyRead index len => decide (index < len) && decide (len < 2 ^ c.lenw)
  | .copyWrite index len _ => decide (index < len) && decide (len < 2 ^ c.lenw)

/-- A host script all of whose accesses are presentable. -/
def scriptWf (c : Config) (script : List HostOp) : Bool := script.all (HostOp.wf c)

end Sys2Proof
end

