-- ==== Sys2Proof/Machine/Host.lean ====
section
/-! DEFINITION. The host agent: register access (30_encoding.md R75), byte access (20_memory.md R52), START (45_command_control.md
R166), reset (70_reset_and_hazards.md R230), and host scripts (30_encoding.md R76, R77), one access a turn. -/

namespace Sys2Proof.Machine

/-- What a read of register number `reg` returns (R11 to R19); CTRL and the numbers above 7 read as 0 (R12, R75). -/
def readReg (s : State) (reg : Nat) : Nat :=
  match reg with
  | 0 => s.cmd.toNat
  | 1 => 0
  | 2 => (statWord s).toNat
  | 3 => s.inLen
  | 4 => s.outLen
  | 5 => s.errExpected.toNat
  | 6 => s.errActual
  | 7 => s.bcErrinfo
  | _ => 0

/-- A register write other than to CTRL (R11, R14, R75): CMD keeps the low 2 bits, IN_LEN the value, every other write is
ignored. A value IN_LEN cannot hold cannot be presented (D30, log 10). -/
def writeReg (c : Config) (reg value : Nat) (s : State) : Outcome :=
  match reg with
  | 0 => .next { s with cmd := (BitVec.ofNat 2 value).setWidth 32 }
  | 3 => if value < 2 ^ c.lenw then .next { s with inLen := value } else .refused .valueTooWide
  | _ => .next s

/-- START is a write to CTRL with bit 0 set (R12, R165). -/
def isStart (value : Nat) : Bool := value.testBit 0

/-- A write to CTRL (R12, R166): START runs the command CMD holds unless the framer is busy, else nothing happens. `ex` runs
an instruction. -/
def writeCtrl (ex : Instr → State → Outcome) (value : Nat) (s : State) : Outcome :=
  if isStart value && !s.busy then ex (decodeCommand s.cmd) s else .next s

/-- A byte write (R52, R240): only IN, only while not BUSY. -/
def writeByte (c : Config) (space : Space) (i : Nat) (b : Byte) (s : State) : Outcome :=
  match space with
  | .inp =>
    if s.busy then .refused .hostWroteInWhileBusy
    else if i < 2 ^ c.lenw then .next { s with inp := s.inp.write i b }
    else .fault .noSuchIndex
  | .out => .refused .hostWroteOut
  | .magicRom => .refused .hostWroteMagicRom

/-- A byte read (R52, R241), handing the byte to `k`: IN and MAGIC_ROM always, OUT only while DONE and below OUT_LEN. -/
def readByte (c : Config) (space : Space) (i : Nat) (s : State) (k : Byte → State) : Outcome :=
  match space with
  | .inp =>
    if i < 2 ^ c.lenw then
      match s.inp.read i with
      | some b => .next (k b)
      | none => .fault .inByteHasNoValue
    else .fault .noSuchIndex
  | .out =>
    if s.done && decide (i < s.outLen) then
      match s.out.read i with
      | some b => .next (k b)
      | none => .fault .outByteHasNoValue
    else .refused .hostReadHiddenOut
  | .magicRom =>
    match s.rom.byte i with
    | some b => .next (k b)
    | none => .fault .noSuchIndex

/-- Puts host accesses before the ones still to be made. -/
def State.willDo (ops : List HostOp) (s : State) : State := { s with script := ops ++ s.script }

/-- What COPYBACK does after its first `i` of `len` bytes (R77). -/
def copyRest (i len : Nat) : HostOp := if i < len then .copyRead i len else .wr 3 len

/-- One access of the host (R76, R77), the rest of its script being `s.script`. A read returns its value to `replies`. -/
def hostAccess (c : Config) (ex : Instr → State → Outcome) (op : HostOp) (s : State) : Outcome :=
  match op with
  | .wr reg value => if reg = 1 then writeCtrl ex value s else writeReg c reg value s
  | .rd reg => .next (s.reply (readReg s reg))
  | .wb space i b => writeByte c space i b s
  | .rb space i => readByte c space i s fun b => s.reply b.toNat
  | .resetPin => .next s.resetMove
  | .wait => .next ((s.reply (readReg s 2)).willDo (if s.done then [] else [.wait]))
  | .ifMatch skip =>
    .next { s.reply (readReg s 2) with script := if s.matched then s.script else s.script.drop skip }
  | .ifOk skip =>
    .next { s.reply (readReg s 2) with script := if s.status = .ok then s.script else s.script.drop skip }
  | .copyback => .next ((s.reply (readReg s 4)).willDo [copyRest 0 s.outLen])
  | .copyRead i len => readByte c .out i s fun b => (s.reply b.toNat).willDo [.copyWrite i len b]
  | .copyWrite i len b => writeByte c .inp i b (s.willDo [copyRest (i + 1) len])

/-- The host's turn: the next access of its script. -/
def hostTurn (c : Config) (ex : Instr → State → Outcome) (s : State) : Outcome :=
  match s.script with
  | [] => .next s
  | op :: rest => hostAccess c ex op { s with script := rest }

/-- `LOAD` writes the bytes at rising indices from `i` (R77). -/
def loadBytes (i : Nat) : Bytes → List HostOp
  | [] => []
  | b :: bs => .wb .inp i b :: loadBytes (i + 1) bs

/-- A command as the pseudo-statements write it: CMD, START, WAIT (R77). -/
def commandOps (code : Nat) : List HostOp := [.wr 0 code, .wr 1 1, .wait]

/-- The expansion of a statement (R76, R77). -/
def expandStmt : HostStmt → List HostOp
  | .wr reg value => [.wr reg value]
  | .rd reg => [.rd reg]
  | .wb space i b => [.wb space i b]
  | .rb space i => [.rb space i]
  | .load bs => loadBytes 0 bs ++ [.wr 3 bs.length]
  | .setlen len => [.wr 3 len]
  | .wait => [.wait]
  | .nop => commandOps 0
  | .encode => commandOps 1
  | .decode => commandOps 2
  | .sniff => commandOps 3
  | .copyback => [.copyback]
  | .roundtrip => commandOps 1 ++ [.copyback] ++ commandOps 2
  | .ifMatch stmt => .ifMatch (expandStmt stmt).length :: expandStmt stmt
  | .ifOk stmt => .ifOk (expandStmt stmt).length :: expandStmt stmt
  | .reset => [.resetPin]

/-- A host script as accesses. -/
def expandScript (stmts : List HostStmt) : List HostOp := stmts.flatMap expandStmt

end Sys2Proof.Machine
end

