-- ==== Sys2Proof/Machine/Schedule.lean ====
section
/-! DEFINITION. Which agent moves and what it runs (45_command_control.md R165, R167; 44_block_codec_port.md R152;
70_reset_and_hazards.md R247). -/

namespace Sys2Proof.Machine

/-- The sequencer has a step: BUSY in a phase of a command, and in a wait phase only with a response (R167). -/
def framerReady (s : State) : Bool :=
  s.busy && s.phase.command.isSome && (!s.phase.waits || s.bcRsp.valid)

/-- The agent has a step to take. The host has one while its script lasts (log 2). -/
def ready (s : State) : Agent → Bool
  | .host => !s.script.isEmpty
  | .framer => framerReady s
  | .engine => engineReady s

/-- Who moves where the schedule does not say or names an agent without a step: the framer, then the engine, then the host,
so that no enabled step of the framer or the engine waits for ever (R247, log 1). -/
def defaultAgent (s : State) : Option Agent :=
  if ready s .framer then some .framer
  else if ready s .engine then some .engine
  else if ready s .host then some .host
  else none

/-- Who moves next (log 1). -/
def pick (s : State) : Option Agent :=
  match s.turns with
  | [] => defaultAgent s
  | a :: _ => if ready s a then some a else defaultAgent s

/-- The instruction the sequencer's step belongs to: the command of its phase, and at D2_SIZE, where the framer reads a size
field, the header it reads (log 13). -/
def framerInstr (s : State) : Instr :=
  match s.phase with
  | .idle => .nop
  | .e1Size => .encode
  | .e2Alloc => .encode
  | .e3Hdr => .encode
  | .e4Empty => .encode
  | .e5Comp => .encode
  | .e5Wait => .encode
  | .d1Magic => .decode
  | .d2Size => if sizeIsPresent s then (headerAt s.inp s.n).getD .decode else .decode
  | .d3Empty => .decode
  | .d4Decomp => .decode
  | .d4Wait => .decode
  | .s1Magic => .sniff
  | .done => .nop

/-- The instruction of the engine's step (R74). -/
def engineInstr (s : State) : Instr := decodePortOp s.bcReq.op

/-- One step of the whole: one agent makes its move. `ex` runs an instruction. With no agent able to move an idle framer stays
as it is (R224) and a busy one is stuck (R173). -/
def stepBy (c : Config) (ex : Instr → State → Outcome) (s : State) : Outcome :=
  match pick s with
  | some .framer => ex (framerInstr s) s.takeTurn
  | some .engine => ex (engineInstr s) s.takeTurn
  | some .host => hostTurn c ex s.takeTurn
  | none => if s.busy then .fault .stuck else .next s.takeTurn

/-- The registers a command word reaches the framer by: CMD holds it, the framer is not busy, and START is the host's next
access (log 3). -/
def State.withCommand (word : Word32) (s : State) : State :=
  { s with
    cmd := (word.extractLsb' 0 2).setWidth 32
    busy := false
    script := .wr 1 1 :: s.script
    turns := .host :: s.turns }

/-- An unanswered port request of the given operation, the engine's turn next (log 3). -/
def State.withPortOp (op : BitVec 1) (s : State) : State :=
  { s with
    bcReq := { s.bcReq with valid := true, op := op }
    bcRsp := { s.bcRsp with valid := false }
    turns := .engine :: s.turns }

/-- A header at the head of the input of a DECODE that has matched its Magic, the framer's turn next (log 3). -/
def State.withHeader (bytes : Bytes) (s : State) : State :=
  { s with
    inp := s.inp.writeBytes 0 bytes
    n := hdrLen
    inPos := magicLen
    cmdL := 0b10
    busy := true
    done := false
    phase := .d2Size
    turns := .framer :: s.turns }

/-- Puts a word where the next step takes its instruction from (log 3). -/
def State.withEncoded (e : Encoded) (s : State) : State :=
  match e with
  | .cmd word => s.withCommand word
  | .portOp op => s.withPortOp op
  | .container bytes => s.withHeader bytes

end Sys2Proof.Machine
end

