-- ==== Sys2Proof/Machine/Step.lean ====
section
/-! DEFINITION. One step of the machine, and the placing of an instruction where the next step runs it. -/

namespace Sys2Proof.Machine

/-- One step of one agent on the hardware's own configuration. -/
def step (s : State) : Host.Outcome State Fault Refusal := stepBy Config.hw exec s

/-- The state whose next step runs the instruction of an opcode-table word (log 3, log 15). -/
def State.withFetchWord (s : State) (nbits w : Nat) : State :=
  match encodedOfTableWord nbits w with
  | none => s
  | some e => s.withEncoded e

end Sys2Proof.Machine
end

