-- ==== Sys2Proof/Machine/Fixtures.lean ====
section
/-! DEFINITION. The default bound (44_block_codec_port.md R146) and the fixture codecs COPY, LIT and FAIL (R158 to R160) as
configurations with the default widths LENW = 64 and BCEW = 32 (00_scope.md R5). None is the real collaborator. -/

namespace Sys2Proof.Machine

/-- The default `compress_bound(n) = n + floor(n / 255) + 16` (R146). -/
def defaultBound (n : Nat) : Nat := n + n / 255 + 16

/-- COPY's compressor (R158). -/
def copyCompress (src : Bytes) (cap : Nat) : Answer := if src.length ≤ cap then .ok src else .fail 1

/-- COPY's decompressor (R158). -/
def copyDecompress (src : Bytes) (target : Nat) : Answer := if src.length ≤ target then .ok src else .fail 2

/-- LIT's block: one final sequence of literals (R159). -/
def litBlock (src : Bytes) : Bytes :=
  if src.length < 15 then BitVec.ofNat 8 (src.length * 16) :: src
  else
    0xF0 :: (List.replicate ((src.length - 15) / 255) 0xFF ++ BitVec.ofNat 8 ((src.length - 15) % 255) :: src)

/-- LIT's compressor (R159). -/
def litCompress (src : Bytes) (cap : Nat) : Answer :=
  if (litBlock src).length ≤ cap then .ok (litBlock src) else .fail 1

/-- The length extension of a literal-only block: bytes are added up to and with the first that is not 255; the sum and
the bytes after it (R159). -/
def litExtend (l : Nat) : Bytes → Option (Nat × Bytes)
  | [] => none
  | b :: bs => if b = 255 then litExtend (l + 255) bs else some (l + b.toNat, bs)

/-- LIT's decompressor (R159). -/
def litDecompress (src : Bytes) (target : Nat) : Answer :=
  match src with
  | [] => .fail 2
  | tok :: rest =>
    if tok.extractLsb' 0 4 ≠ 0 then .fail 2
    else
      match (if (tok.extractLsb' 4 4).toNat = 15 then litExtend 15 rest else some ((tok.extractLsb' 4 4).toNat, rest)) with
      | none => .fail 2
      | some (l, q) =>
        if q.length ≠ l then .fail 2
        else if target < l then .fail 3
        else .ok q

/-- FAIL's answer to every call (R160). -/
def failAnswer (_src : Bytes) (_cap : Nat) : Answer := .fail 0x0BAD

/-- Fixture COPY (R158). -/
def copyCodec : Config where
  lenw := 64
  bcew := 32
  compressBound := fun n => n
  compressBlock := copyCompress
  decompressBlock := copyDecompress
  lenw_ge := by decide
  bcew_ge := by decide
  bound_fits := by intro n h; norm_num [sizeMax] at h ⊢; omega
  compress_fits := by intro src cap p h; unfold copyCompress at h; split at h <;> simp_all
  decompress_fits := by intro src cap p h; unfold copyDecompress at h; split at h <;> simp_all
  compress_error_fits := by
    intro src cap e h; unfold copyCompress at h; split at h <;> cases h; norm_num
  decompress_error_fits := by
    intro src cap e h; unfold copyDecompress at h; split at h <;> cases h; norm_num

/-- Fixture LIT (R159). -/
def litCodec : Config where
  lenw := 64
  bcew := 32
  compressBound := defaultBound
  compressBlock := litCompress
  decompressBlock := litDecompress
  lenw_ge := by decide
  bcew_ge := by decide
  bound_fits := by intro n h; unfold defaultBound; norm_num [sizeMax] at h ⊢; omega
  compress_fits := by
    intro src cap p h; unfold litCompress at h; split at h <;> cases h; assumption
  decompress_fits := by
    intro src target w h
    unfold litDecompress at h
    repeat' split at h
    all_goals cases h
    omega
  compress_error_fits := by
    intro src cap e h; unfold litCompress at h; split at h <;> cases h; norm_num
  decompress_error_fits := by
    intro src target e h
    unfold litDecompress at h
    repeat' split at h
    all_goals cases h
    all_goals norm_num

/-- Fixture FAIL (R160). -/
def failCodec : Config where
  lenw := 64
  bcew := 32
  compressBound := fun n => n
  compressBlock := failAnswer
  decompressBlock := failAnswer
  lenw_ge := by decide
  bcew_ge := by decide
  bound_fits := by intro n h; norm_num [sizeMax] at h ⊢; omega
  compress_fits := by intro _ _ _ h; cases h
  decompress_fits := by intro _ _ _ h; cases h
  compress_error_fits := by intro _ _ e h; cases h; norm_num
  decompress_error_fits := by intro _ _ e h; cases h; norm_num

end Sys2Proof.Machine
end

