-- ==== Sys2Proof/Machine/Configured.lean ====
section
/-! DEFINITION. The same machine with its configuration as an argument (00_scope.md R5: "the named ones are arguments of the
model"), for claims about every configuration and for the fixtures. `exec` and `step` are these at `Config.hw`
(Laws/Configured.lean). -/

namespace Sys2Proof.Machine

/-- `exec` on a framer of configuration `c`. -/
def execWith (c : Config) (i : Instr) (s : State) : Outcome :=
  match i with
  | .nop => nopStep s
  | .encode => encodeStep c s
  | .decode => decodeStep s
  | .sniff => sniffStep s
  | .compress => compressStep c s
  | .decompress => decompressStep c s
  | .containerHdr size => containerHdrStep size s

/-- `step` on a framer of configuration `c`. -/
def stepWith (c : Config) (s : State) : Outcome := stepBy c (execWith c) s

/-- `k` steps, stopping at the first fault or refusal. -/
def runWith (c : Config) : Nat → State → Outcome
  | 0, s => .next s
  | k + 1, s =>
    match stepWith c s with
    | .next t => runWith c k t
    | .fault f => .fault f
    | .refused r => .refused r

end Sys2Proof.Machine
end

