-- ==== Sys2Proof/Machine/Transactions.lean ====
section
/-! DEFINITION. The commands as functions from the input byte sequence to the result, the normative content of 41_encode.md R100,
42_decode.md R120 and 43_sniff.md R140, and what a host observes at the end of a run (45_command_control.md R173). -/

namespace Sys2Proof.Machine

/-- `Ok(w)` or `Err(k)` of R76. -/
inductive Result where
  | ok (w : Bytes)
  | err (k : ErrorKind)
deriving DecidableEq, Repr

/-- `MAGIC ++ LE32_ENC(trunc_32(n))`, the 12 bytes of R60. -/
def headerBytes (n : Nat) : Bytes := magic ++ le32Enc (trunc32 n)

/-- `ENCODE(d)` (R100). -/
def encodeFn (c : Config) (d : Bytes) : Result :=
  if sizeMax < d.length then .err .sizeOverflow
  else if d.length = 0 then .ok (headerBytes d.length)
  else
    match c.compressBlock d (c.compressBound d.length) with
    | .fail e => .err (.compressionFailed e)
    | .ok p => .ok (headerBytes d.length ++ p)

/-- `DECODE(b)` (R120), stage by stage. -/
def decodeFn (c : Config) (b : Bytes) : Result :=
  if b.length < magicLen ∨ b.take magicLen ≠ magic then .err .invalidFormat
  else
    match sizeField (b.drop magicLen) with
    | none => .err .invalidFormat
    | some size =>
      if size = 0 then .ok []
      else
        match c.decompressBlock (b.drop hdrLen) size.toNat with
        | .fail e => .err (.decompressionFailed e)
        | .ok w => if w.length = size.toNat then .ok w else .err (.sizeMismatch size w.length)

/-- `SNIFF(b)` (R140). -/
def sniffFn (b : Bytes) : Bool := decide (magicLen ≤ b.length ∧ b.take magicLen = magic)

/-- A well-formed Container (R64), item by item; item 3 is implied by item 1. -/
def WellFormedContainer (c : Config) (b : Bytes) : Prop :=
  hdrLen ≤ b.length ∧ b.take magicLen = magic ∧
    ∃ size, sizeField (b.drop magicLen) = some size ∧
      (size ≠ 0 → ∃ w, c.decompressBlock (b.drop hdrLen) size.toNat = .ok w ∧ w.length = size.toNat) ∧
      (size = 0 → b.length = hdrLen)

/-- The observable result of a run (R173). -/
structure Observed where
  status : Status
  matched : Bool
  outLen : Nat
  output : Option Bytes
  errExpected : Word32
  errActual : Nat
  bcErrinfo : Nat
deriving DecidableEq, Repr

/-- What the host can read at the end of a run (R173). -/
def observe (s : State) : Observed :=
  ⟨s.status, s.matched, s.outLen, exposedOutput s, s.errExpected, s.errActual, s.bcErrinfo⟩

/-- What R107 and R126 say the registers hold at DONE for a result. -/
def observedResult : Result → Observed
  | .ok w => ⟨.ok, false, w.length, some w, 0, 0, 0⟩
  | .err k => ⟨k.status, false, 0, some [], k.expected 0, k.actual 0, k.errinfo 0⟩

end Sys2Proof.Machine
end

