-- ==== Sys2Proof/Safety.lean ====
section
/-! DEFINITION. The terms claims are stated in: the invariants of a framer (10_state.md R31, and the facts about phases they rest on),
the bounds of its lengths (00_scope.md R5, 20_memory.md R54), runs and their ends (45_command_control.md R173), and the
transition table (R171). -/

namespace Sys2Proof.Machine

/-- The result registers as START leaves them (R166). -/
structure Cleared (s : State) : Prop where
  status : s.status = .ok
  matched : s.matched = false
  outLen : s.outLen = 0
  errExpected : s.errExpected = 0
  errActual : s.errActual = 0
  bcErrinfo : s.bcErrinfo = 0

/-- Items (a) to (h) of R31, in its order. -/
structure SpecInvariant (s : State) : Prop where
  a : s.busy = true ↔ s.phase ≠ .idle ∧ s.phase ≠ .done
  b : s.done = true ↔ s.phase = .done
  c : ¬(s.busy = true ∧ s.done = true) ∧ ((s.busy = false ∧ s.done = false) ↔ s.phase = .idle)
  d : s.bcReq.valid = true → s.phase = .e5Wait ∨ s.phase = .d4Wait
  e : s.bcRsp.valid = true → s.phase = .e5Wait ∨ s.phase = .d4Wait
  f : s.done = true → s.status ≠ .ok → s.outLen = 0
  g : s.matched = true → s.done = true ∧ s.cmdL = 3 ∧ s.status = .ok
  h : (s.errExpected ≠ 0 ∨ s.errActual ≠ 0 → s.status = .sizeMismatch) ∧
    (s.bcErrinfo ≠ 0 → s.status = .compressionFailed ∨ s.status = .decompressionFailed)

/-- The command code a phase belongs to is the one CMD_L holds. -/
def commandCode : Phase → Option (BitVec 2)
  | .idle => none
  | .e1Size => some 1
  | .e2Alloc => some 1
  | .e3Hdr => some 1
  | .e4Empty => some 1
  | .e5Comp => some 1
  | .e5Wait => some 1
  | .d1Magic => some 2
  | .d2Size => some 2
  | .d3Empty => some 2
  | .d4Decomp => some 2
  | .d4Wait => some 2
  | .s1Magic => some 3
  | .done => none

/-- An invariant every step keeps: R31, and what its items rest on. -/
structure FramerInv (s : State) : Prop where
  busy_iff : s.busy = true ↔ s.phase ≠ .idle ∧ s.phase ≠ .done
  done_iff : s.done = true ↔ s.phase = .done
  /-- A wait phase has a request outstanding, and no other phase has (R155). -/
  req_iff : s.bcReq.valid = true ↔ s.phase.waits = true
  rsp_only : s.bcRsp.valid = true → s.phase.waits = true
  /-- The operation posted is the one the wait phase answers to (R105, R124). -/
  op_of_e5 : s.phase = .e5Wait → s.bcReq.op = 0
  op_of_d4 : s.phase = .d4Wait → s.bcReq.op = 1
  /-- While a command runs its result registers are as START left them (R172). -/
  running_cleared : s.busy = true → Cleared s
  error_hides : s.status ≠ .ok → s.outLen = 0
  match_only : s.matched = true → s.done = true ∧ s.cmdL = 3 ∧ s.status = .ok
  counts_only : s.errExpected ≠ 0 ∨ s.errActual ≠ 0 → s.status = .sizeMismatch
  errinfo_only : s.bcErrinfo ≠ 0 → s.status = .compressionFailed ∨ s.status = .decompressionFailed
  /-- R18, R202. -/
  mismatch_counts : s.status = .sizeMismatch → s.errExpected ≠ 0 ∧ s.errActual ≠ s.errExpected.toNat
  command_of_phase : ∀ code, commandCode s.phase = some code → s.cmdL = code
  /-- The size a decompression is asked for is not 0 (R123, R148). -/
  size_of_d4 : s.phase = .d4Decomp ∨ s.phase = .d4Wait → s.size ≠ 0
  /-- CMD[31:2] reads as zero (R11, R75). -/
  cmd_reserved : s.cmd.extractLsb' 2 30 = 0
  in_wf : s.inp.wf = true
  out_wf : s.out.wf = true

/-- The phases of ENCODE after E1_SIZE. -/
def afterSizeCheck (p : Phase) : Prop := p = .e2Alloc ∨ p = .e3Hdr ∨ p = .e4Empty ∨ p = .e5Comp ∨ p = .e5Wait

/-- Every length and cursor register fits LENW bits, BC_ERRINFO fits BCEW bits, every byte lies in its space, and what this
rests on (R5, R54, R85): no sum or difference of the framer wraps. -/
structure Fits (c : Config) (s : State) : Prop where
  inLen : s.inLen < 2 ^ c.lenw
  outLen : s.outLen < 2 ^ c.lenw
  errActual : s.errActual < 2 ^ c.lenw
  bcErrinfo : s.bcErrinfo < 2 ^ c.bcew
  n : s.n < 2 ^ c.lenw
  cap : s.cap < 2 ^ c.lenw
  inPos : s.inPos < 2 ^ c.lenw
  outPos : s.outPos < 2 ^ c.lenw
  in_index : ∀ cell ∈ s.inp, cell.1 < 2 ^ c.lenw
  out_index : ∀ cell ∈ s.out, cell.1 < 2 ^ c.lenw
  src_off : s.bcReq.srcOff < 2 ^ c.lenw
  src_len : s.bcReq.srcLen < 2 ^ c.lenw
  dst_off : s.bcReq.dstOff < 2 ^ c.lenw
  dst_cap : s.bcReq.dstCap < 2 ^ c.lenw
  src : s.bcReq.valid = true → s.bcReq.srcOff + s.bcReq.srcLen < 2 ^ c.lenw
  dst : s.bcReq.valid = true → s.bcReq.dstOff + s.bcReq.dstCap < 2 ^ c.lenw
  rsp_len : s.bcRsp.len < 2 ^ c.lenw
  rsp_errinfo : s.bcRsp.errinfo < 2 ^ c.bcew
  /-- R149, R153. -/
  rsp_inside : s.bcRsp.valid = true → s.bcRsp.fail = false → s.bcRsp.len ≤ s.bcReq.dstCap
  n_of_encode : afterSizeCheck s.phase → s.n ≤ sizeMax
  cap_of_encode : s.phase = .e3Hdr ∨ s.phase = .e4Empty ∨ s.phase = .e5Comp → s.cap = hdrLen + c.compressBound s.n
  req_of_e5 : s.phase = .e5Wait →
    s.bcReq.srcOff = 0 ∧ s.bcReq.srcLen = s.n ∧ s.bcReq.dstOff = hdrLen ∧ s.bcReq.dstCap = c.compressBound s.n
  n_of_d2 : s.phase = .d2Size → s.inPos = magicLen ∧ magicLen ≤ s.n
  n_of_d3 : s.phase = .d3Empty ∨ s.phase = .d4Decomp → hdrLen ≤ s.n
  req_of_d4 : s.phase = .d4Wait →
    s.bcReq.srcOff = hdrLen ∧ s.bcReq.srcLen = s.n - hdrLen ∧ s.bcReq.dstOff = 0 ∧ s.bcReq.dstCap = s.size.toNat

/-- A run from a launch to its end: `k` steps from `s`, BUSY until then, end in `t`, the first state with PHASE = DONE (R173). -/
def EndsAfter (c : Config) (k : Nat) (s t : State) : Prop :=
  runWith c k s = .next t ∧ t.phase = .done ∧ ∀ j, j < k → ∃ u, runWith c j s = .next u ∧ u.busy = true

/-- How many steps of the sequencer and the engine are left at most (R107, R126, R171, R247). -/
def stepsLeft (s : State) : Nat :=
  match s.phase with
  | .idle => 0
  | .done => 0
  | .s1Magic => 1
  | .e5Wait => if s.bcRsp.valid then 1 else 2
  | .e5Comp => 3
  | .e4Empty => 4
  | .e3Hdr => 5
  | .e2Alloc => 6
  | .e1Size => 7
  | .d4Wait => if s.bcRsp.valid then 1 else 2
  | .d4Decomp => 3
  | .d3Empty => 4
  | .d2Size => 5
  | .d1Magic => 6

/-- The rows of R171 a step of the sequencer can take, each with its condition and, at DONE, its status. -/
inductive SequencerEdge (s t : State) : Prop where
  | e1Overflow (h : s.phase = .e1Size) (cond : sizeMax < s.n) (dest : t.phase = .done) (st : t.status = .sizeOverflow)
  | e1Fits (h : s.phase = .e1Size) (cond : s.n ≤ sizeMax) (dest : t.phase = .e2Alloc)
  | e2 (h : s.phase = .e2Alloc) (dest : t.phase = .e3Hdr)
  | e3 (h : s.phase = .e3Hdr) (dest : t.phase = .e4Empty)
  | e4Empty (h : s.phase = .e4Empty) (cond : s.n = 0) (dest : t.phase = .done) (st : t.status = .ok)
  | e4Data (h : s.phase = .e4Empty) (cond : s.n ≠ 0) (dest : t.phase = .e5Comp)
  | e5Post (h : s.phase = .e5Comp) (dest : t.phase = .e5Wait)
  | e5Fail (h : s.phase = .e5Wait) (rsp : s.bcRsp.valid = true) (cond : s.bcRsp.fail = true) (dest : t.phase = .done)
      (st : t.status = .compressionFailed)
  | e5Ok (h : s.phase = .e5Wait) (rsp : s.bcRsp.valid = true) (cond : s.bcRsp.fail = false) (dest : t.phase = .done)
      (st : t.status = .ok)
  | d1Bad (h : s.phase = .d1Magic) (cond : magicMatch s.inp s.n = some false) (dest : t.phase = .done)
      (st : t.status = .invalidFormat)
  | d1Good (h : s.phase = .d1Magic) (cond : magicMatch s.inp s.n = some true) (dest : t.phase = .d2Size)
  | d2Short (h : s.phase = .d2Size) (cond : s.n - 8 < 4) (dest : t.phase = .done) (st : t.status = .invalidFormat)
  | d2Present (h : s.phase = .d2Size) (cond : 4 ≤ s.n - 8) (dest : t.phase = .d3Empty)
  | d3Zero (h : s.phase = .d3Empty) (cond : s.size = 0) (dest : t.phase = .done) (st : t.status = .ok)
  | d3Data (h : s.phase = .d3Empty) (cond : s.size ≠ 0) (dest : t.phase = .d4Decomp)
  | d4Post (h : s.phase = .d4Decomp) (dest : t.phase = .d4Wait)
  | d4Fail (h : s.phase = .d4Wait) (rsp : s.bcRsp.valid = true) (cond : s.bcRsp.fail = true) (dest : t.phase = .done)
      (st : t.status = .decompressionFailed)
  | d4Mismatch (h : s.phase = .d4Wait) (rsp : s.bcRsp.valid = true) (cond : s.bcRsp.fail = false)
      (len : s.bcRsp.len ≠ s.size.toNat) (dest : t.phase = .done) (st : t.status = .sizeMismatch)
  | d4Ok (h : s.phase = .d4Wait) (rsp : s.bcRsp.valid = true) (cond : s.bcRsp.fail = false)
      (len : s.bcRsp.len = s.size.toNat) (dest : t.phase = .done) (st : t.status = .ok)
  | s1 (h : s.phase = .s1Magic) (dest : t.phase = .done) (st : t.status = .ok)

/-- The rows of R171 a host access can take: START from IDLE or DONE, and reset. -/
inductive HostEdge (s t : State) : Prop where
  | nop (h : s.phase = .idle ∨ s.phase = .done) (code : s.cmd.extractLsb' 0 2 = 0) (dest : t.phase = .done)
  | encode (h : s.phase = .idle ∨ s.phase = .done) (code : s.cmd.extractLsb' 0 2 = 1) (dest : t.phase = .e1Size)
  | decode (h : s.phase = .idle ∨ s.phase = .done) (code : s.cmd.extractLsb' 0 2 = 2) (dest : t.phase = .d1Magic)
  | sniff (h : s.phase = .idle ∨ s.phase = .done) (code : s.cmd.extractLsb' 0 2 = 3) (dest : t.phase = .s1Magic)
  | reset (dest : t.phase = .idle)

end Sys2Proof.Machine
end

