-- ==== Sys2Proof/Certificates/Slice0/Obligations.lean ====
section
/-! DEFINITION. The statements about the MOZLZ4-FRAMER. Each docstring names the rule of spec/ it formalises. `c` ranges over every
lawful configuration; `exec` and `step` are the machine at `Config.hw`, an unknown one of them. Where a statement speaks of
`turns`, `script` or `replies` it speaks of the model's own fields, its choice (log 1, log 2), and of `fresh` likewise (log 8). Where
one says that a value the spec calls unspecified is kept, that is the model's choice: port payload fields while valid is 0 (log 22),
SIZE and CAP before their phase writes them (log 23), bytes of OUT that are not exposed (log 24). -/

open Sys2Proof Sys2Proof.Machine

/-! ## Encodings -/

/-- 40_datapath_primitives.md R92: LE32_ENC and LE32_DEC are inverse bijections. -/
def Obligations.SizeFieldCodesAreInverse : Prop :=
  (∀ v : Word32, sizeField (le32Enc v) = some v) ∧
    ∀ b0 b1 b2 b3 : Byte, le32Enc (le32Dec b0 b1 b2 b3) = [b0, b1, b2, b3]

/-- 30_encoding.md R60, R70, R74: no bit of an encoding is dropped. -/
def Obligations.DecodeOfEncodeIsTheInstruction : Prop :=
  ∀ i : Instr, i.wf = true → decode (encode i) = .ok i

/-- The other direction: a word decodes only to the instruction whose encoding it is, the reserved bits of CMD (R75) and the
Payload after a header (R60) apart. -/
def Obligations.AWordDecodesOnlyFromItsEncoding : Prop :=
  (∀ (w : Word32) (i : Instr), decode (.cmd w) = .ok i → encode i = .cmd ((w.extractLsb' 0 2).setWidth 32)) ∧
    (∀ (op : BitVec 1) (i : Instr), decode (.portOp op) = .ok i → encode i = .portOp op) ∧
    ∀ (bytes : Bytes) (i : Instr), decode (.container bytes) = .ok i →
      ∃ header payload, encode i = .container header ∧ bytes = header ++ payload ∧ header.length = hdrLen

/-- 30_encoding.md R67, the rows about the header, and that no other header is rejected. -/
def Obligations.IllegalHeadersAreRejectedByName : Prop :=
  (∀ b : Bytes, b.length < 8 → decode (.container b) = .error .headerTooShort) ∧
    (∀ b : Bytes, 8 ≤ b.length → b.take 8 ≠ magic → decode (.container b) = .error .badMagic) ∧
    (∀ t : Bytes, t.length ≤ 3 → decode (.container (magic ++ t)) = .error .truncatedSize) ∧
    ∀ t : Bytes, 4 ≤ t.length → ∃ size, decode (.container (magic ++ t)) = .ok (.containerHdr size)

/-- Words written out from the tables of R60, R70, R74 (a sanity statement). -/
def Obligations.TheTablesWordsDecode : Prop :=
  decode (.cmd 0b01#32) = .ok .encode ∧ decode (.cmd 0xFFFFFFFE#32) = .ok .decode ∧
    decode (.portOp 0b1#1) = .ok .decompress ∧
    decode (.container [0x6d, 0x6f, 0x7a, 0x4c, 0x7a, 0x34, 0x30, 0x00, 0x0f, 0x00, 0x00, 0x00]) =
      .ok (.containerHdr 15)

/-! ## Steps -/

/-- A step runs the instruction its agent decodes (the model's schedule, log 1; the header at D2_SIZE, log 13): the host's START the word in CMD, the engine's step BC_REQ.op, the
framer's step the command of its phase, in every phase and on every input (at D2_SIZE with fewer than 4 bytes after the Magic too), and
at D2_SIZE, on an input that begins with a header, that header as well. The turn is used up, and START uses up the host's access. -/
def Obligations.AStepRunsTheDecodedInstruction : Prop :=
  (∀ (s : State) (v : Nat) (rest : List HostOp) (i : Instr), pick s = some .host → s.script = .wr 1 v :: rest →
      v.testBit 0 = true → s.busy = false → decode (.cmd s.cmd) = .ok i →
      step s = exec i { s with turns := s.turns.tail, script := rest }) ∧
    (∀ (s : State) (i : Instr), pick s = some .engine → decode (.portOp s.bcReq.op) = .ok i →
      step s = exec i { s with turns := s.turns.tail }) ∧
    (∀ (s : State) (i : Instr), pick s = some .framer → s.phase.command = some i →
      step s = exec i { s with turns := s.turns.tail }) ∧
    ∀ (s : State) (header : Bytes) (i : Instr), pick s = some .framer → s.phase = .d2Size → s.inPos = magicLen →
      hdrLen ≤ s.n → s.inp.readBytes 0 hdrLen = some header → decode (.container header) = .ok i →
      step s = exec i { s with turns := s.turns.tail }

/-- The placing of a table word: where the decoder reads an instruction from it, the next step runs exactly that. The model's
own interface (log 3, log 15). -/
def Obligations.APlacedTableWordRunsNext : Prop :=
  ∀ (s : State) (nbits w : Nat) (i : Instr), decodeTableWord nbits w = some i →
    step (s.withFetchWord nbits w) = exec i { s.withFetchWord nbits w with turns := s.turns, script := s.script }

/-- `exec`, `step` and runs of the host's `core` are the machine at the hardware's configuration. -/
def Obligations.TheMachineIsTheConfiguredOne : Prop :=
  (∀ (i : Instr) (s : State), exec i s = execWith Config.hw i s) ∧ (∀ s : State, step s = stepWith Config.hw s) ∧
    ∀ (k : Nat) (s : State), Host.Core.run core k s = runWith Config.hw k s

/-! ## START and NOP -/

/-- 45_command_control.md R166, R168: START while BUSY changes nothing; else it copies CMD and IN_LEN, clears the results, the
cursors and the port, and goes to the first phase, NOP being performed at once. SIZE and CAP are not written. That they, the payload fields of the port and the bytes of OUT keep what
they held is the model's choice (log 23, log 22, log 24). -/
def Obligations.StartLaunchesTheCommand : Prop :=
  ∀ (s : State) (v : Nat) (rest : List HostOp), pick s = some .host → s.script = .wr 1 v :: rest → v.testBit 0 = true →
    (s.busy = true → step s = .next { s with turns := s.turns.tail, script := rest }) ∧
    (s.busy = false → ∃ (busy done : Bool) (first : Phase),
      step s = .next
        { s with
          turns := s.turns.tail
          script := rest
          cmdL := s.cmd.extractLsb' 0 2
          n := s.inLen
          status := .ok
          matched := false
          done := done
          outLen := 0
          errExpected := 0
          errActual := 0
          bcErrinfo := 0
          inPos := 0
          outPos := 0
          bcReq := { s.bcReq with valid := false }
          bcRsp := { s.bcRsp with valid := false }
          busy := busy
          phase := first } ∧
      (s.cmd.extractLsb' 0 2 = 0b00#2 → busy = false ∧ done = true ∧ first = .done) ∧
      (s.cmd.extractLsb' 0 2 = 0b01#2 → busy = true ∧ done = false ∧ first = .e1Size) ∧
      (s.cmd.extractLsb' 0 2 = 0b10#2 → busy = true ∧ done = false ∧ first = .d1Magic) ∧
      (s.cmd.extractLsb' 0 2 = 0b11#2 → busy = true ∧ done = false ∧ first = .s1Magic))

/-- 45_command_control.md R169 with R166, R170: NOP completes in the step of START. That SIZE, CAP and the payload fields of the port
keep what they held is the model's choice (log 23, log 22). -/
def Obligations.NopCompletesAtOnce : Prop :=
  ∀ s : State, s.busy = false →
    exec .nop s = .next
      { s with
        cmdL := 0b00
        n := s.inLen
        status := .ok
        matched := false
        outLen := 0
        errExpected := 0
        errActual := 0
        bcErrinfo := 0
        inPos := 0
        outPos := 0
        bcReq := { s.bcReq with valid := false }
        bcRsp := { s.bcRsp with valid := false }
        busy := false
        done := true
        phase := .done }

/-! ## ENCODE -/

/-- 41_encode.md R101 with 60_exceptions.md R206: E1_SIZE. -/
def Obligations.E1SizeChecksTheLength : Prop :=
  ∀ s : State, s.busy = true → s.phase = .e1Size →
    (s.n ≤ 4294967295 → exec .encode s = .next { s with phase := .e2Alloc }) ∧
    (4294967295 < s.n → exec .encode s = .next
      { s with status := .sizeOverflow, outLen := 0, busy := false, done := true, phase := .done })

/-- 41_encode.md R102: E2_ALLOC. -/
def Obligations.E2AllocSizesTheWindow : Prop :=
  ∀ s : State, s.busy = true → s.phase = .e2Alloc →
    exec .encode s = .next { s with cap := 12 + Config.hw.compressBound s.n, phase := .e3Hdr }

/-- 41_encode.md R103: E3_HDR writes Magic to OUT[0..8) and the length to OUT[8..12), least significant byte first; every
other byte of OUT and everything else stays. -/
def Obligations.E3HdrWritesTheHeader : Prop :=
  ∀ s : State, s.busy = true → s.phase = .e3Hdr → ∃ t : State, exec .encode s = .next t ∧
    t = { s with out := t.out, size := BitVec.ofNat 32 s.n, outPos := 12, phase := .e4Empty } ∧
    t.out.readBytes 0 8 = some [0x6d, 0x6f, 0x7a, 0x4c, 0x7a, 0x34, 0x30, 0x00] ∧
    t.out.readBytes 8 4 = some (le32Enc (BitVec.ofNat 32 s.n)) ∧
    ∀ a, 12 ≤ a → t.out.read a = s.out.read a

/-- 41_encode.md R104: E4_EMPTY. -/
def Obligations.E4EmptyEndsAnEmptyInput : Prop :=
  ∀ s : State, s.busy = true → s.phase = .e4Empty →
    (s.n = 0 → exec .encode s = .next
      { s with status := .ok, outLen := s.outPos, busy := false, done := true, phase := .done }) ∧
    (s.n ≠ 0 → exec .encode s = .next { s with phase := .e5Comp })

/-- 41_encode.md R105: E5_COMP. -/
def Obligations.E5CompPostsTheWholeInput : Prop :=
  ∀ s : State, s.busy = true → s.phase = .e5Comp →
    exec .encode s = .next
      { s with
        bcReq := { valid := true, op := 0, srcOff := 0, srcLen := s.n, dstOff := 12, dstCap := s.cap - 12 }
        phase := .e5Wait }

/-- 41_encode.md R106 with 60_exceptions.md R206: E5_WAIT. Without a response there is no step, and
that `exec` then answers the same state is the model's choice (log 14), as that a consumed port keeps its payload is (log 22). -/
def Obligations.E5WaitTakesTheAnswer : Prop :=
  ∀ s : State, s.busy = true → s.phase = .e5Wait →
    (s.bcRsp.valid = false → exec .encode s = .next s) ∧
    (s.bcRsp.valid = true → s.bcRsp.fail = false → exec .encode s = .next
      { s with
        bcReq := { s.bcReq with valid := false }
        bcRsp := { s.bcRsp with valid := false }
        outPos := 12 + s.bcRsp.len
        status := .ok
        outLen := 12 + s.bcRsp.len
        busy := false
        done := true
        phase := .done }) ∧
    (s.bcRsp.valid = true → s.bcRsp.fail = true → exec .encode s = .next
      { s with
        bcReq := { s.bcReq with valid := false }
        bcRsp := { s.bcRsp with valid := false }
        status := .compressionFailed
        bcErrinfo := s.bcRsp.errinfo
        outLen := 0
        busy := false
        done := true
        phase := .done })

/-! ## DECODE -/

/-- 42_decode.md R121 with 60_exceptions.md R206: D1_MAGIC. -/
def Obligations.D1MagicStripsTheMagic : Prop :=
  ∀ s : State, s.busy = true → s.phase = .d1Magic →
    (s.n < 8 → exec .decode s = .next
      { s with status := .invalidFormat, outLen := 0, busy := false, done := true, phase := .done }) ∧
    ∀ b : Bytes, 8 ≤ s.n → s.inp.readBytes 0 8 = some b →
      (b ≠ [0x6d, 0x6f, 0x7a, 0x4c, 0x7a, 0x34, 0x30, 0x00] → exec .decode s = .next
        { s with status := .invalidFormat, outLen := 0, busy := false, done := true, phase := .done }) ∧
      (b = [0x6d, 0x6f, 0x7a, 0x4c, 0x7a, 0x34, 0x30, 0x00] → exec .decode s = .next
        { s with inPos := 8, phase := .d2Size })

/-- 42_decode.md R122 with 60_exceptions.md R206: D2_SIZE. With the cursor at 8, where R121 leaves it, 12 ≤ N follows from the first
bound; elsewhere the read would pass N (20_memory.md R44), which CommandsOffTheirPhase says stops. -/
def Obligations.D2SizeTakesTheSize : Prop :=
  ∀ s : State, s.busy = true → s.phase = .d2Size →
    (s.n - s.inPos < 4 → exec .decode s = .next
      { s with status := .invalidFormat, outLen := 0, busy := false, done := true, phase := .done }) ∧
    ∀ b0 b1 b2 b3 : Byte, 4 ≤ s.n - s.inPos → 12 ≤ s.n → s.inp.readBytes 8 4 = some [b0, b1, b2, b3] →
      ∃ size : Word32, size.toNat = b0.toNat + 2 ^ 8 * b1.toNat + 2 ^ 16 * b2.toNat + 2 ^ 24 * b3.toNat ∧
        exec .decode s = .next { s with size := size, inPos := 12, phase := .d3Empty }

/-- 42_decode.md R123: D3_EMPTY looks at SIZE alone, so bytes after a zero size are ignored. -/
def Obligations.D3EmptyEndsAZeroSize : Prop :=
  ∀ s : State, s.busy = true → s.phase = .d3Empty →
    (s.size = 0 → exec .decode s = .next
      { s with status := .ok, outLen := 0, busy := false, done := true, phase := .done }) ∧
    (s.size ≠ 0 → exec .decode s = .next { s with phase := .d4Decomp })

/-- 42_decode.md R124: D4_DECOMP. -/
def Obligations.D4DecompPostsThePayload : Prop :=
  ∀ s : State, s.busy = true → s.phase = .d4Decomp →
    exec .decode s = .next
      { s with
        cap := s.size.toNat
        bcReq := { valid := true, op := 1, srcOff := 12, srcLen := s.n - 12, dstOff := 0, dstCap := s.size.toNat }
        phase := .d4Wait }

/-- 42_decode.md R125 with 60_exceptions.md R206: D4_WAIT; the failure test comes first, the length test is an
equality. Without a response there is no step, and that `exec` then answers the same state is the model's choice (log 14), as that a
consumed port keeps its payload is (log 22). -/
def Obligations.D4WaitTakesTheAnswer : Prop :=
  ∀ s : State, s.busy = true → s.phase = .d4Wait →
    (s.bcRsp.valid = false → exec .decode s = .next s) ∧
    (s.bcRsp.valid = true → s.bcRsp.fail = true → exec .decode s = .next
      { s with
        bcReq := { s.bcReq with valid := false }
        bcRsp := { s.bcRsp with valid := false }
        status := .decompressionFailed
        bcErrinfo := s.bcRsp.errinfo
        outLen := 0
        busy := false
        done := true
        phase := .done }) ∧
    (s.bcRsp.valid = true → s.bcRsp.fail = false → s.bcRsp.len ≠ s.size.toNat → exec .decode s = .next
      { s with
        bcReq := { s.bcReq with valid := false }
        bcRsp := { s.bcRsp with valid := false }
        status := .sizeMismatch
        errExpected := s.size
        errActual := s.bcRsp.len
        outLen := 0
        busy := false
        done := true
        phase := .done }) ∧
    (s.bcRsp.valid = true → s.bcRsp.fail = false → s.bcRsp.len = s.size.toNat → exec .decode s = .next
      { s with
        bcReq := { s.bcReq with valid := false }
        bcRsp := { s.bcRsp with valid := false }
        status := .ok
        outLen := s.size.toNat
        busy := false
        done := true
        phase := .done })

/-! ## SNIFF, the engine, the header -/

/-- 43_sniff.md R141: S1_MAGIC. -/
def Obligations.S1MagicReportsTheMagic : Prop :=
  ∀ s : State, s.busy = true → s.phase = .s1Magic →
    (s.n < 8 → exec .sniff s = .next
      { s with matched := false, status := .ok, outLen := 0, busy := false, done := true, phase := .done }) ∧
    ∀ b : Bytes, 8 ≤ s.n → s.inp.readBytes 0 8 = some b → exec .sniff s = .next
      { s with
        matched := decide (b = [0x6d, 0x6f, 0x7a, 0x4c, 0x7a, 0x34, 0x30, 0x00])
        status := .ok
        outLen := 0
        busy := false
        done := true
        phase := .done }

/-- 44_block_codec_port.md R152: the engine's step on a request that is not yet answered and whose source lies below N (20_memory.md
R44), for both operations. What the answer does
not give (the rest of the window, the other field of the response) is left open. -/
def Obligations.TheEngineAnswersARequest : Prop :=
  ∀ (i : Instr) (f : Bytes → Nat → Answer) (s : State) (src : Bytes),
    (i = .compress ∧ f = Config.hw.compressBlock) ∨ (i = .decompress ∧ f = Config.hw.decompressBlock) →
    s.bcReq.valid = true → s.bcRsp.valid = false → s.bcReq.srcLen = 0 ∨ s.bcReq.srcOff + s.bcReq.srcLen ≤ s.n →
    s.inp.readBytes s.bcReq.srcOff s.bcReq.srcLen = some src →
    ∃ t : State, exec i s = .next t ∧ t = { s with out := t.out, bcRsp := t.bcRsp, fresh := t.fresh } ∧
      (∀ a, a < s.bcReq.dstOff ∨ s.bcReq.dstOff + s.bcReq.dstCap ≤ a → t.out.read a = s.out.read a) ∧
      t.bcRsp.valid = true ∧
      match f src s.bcReq.dstCap with
      | .ok w => t.bcRsp.fail = false ∧ t.bcRsp.len = w.length ∧ t.out.readBytes s.bcReq.dstOff w.length = some w
      | .fail e => t.bcRsp.fail = true ∧ t.bcRsp.errinfo = e

/-- 44_block_codec_port.md R152: with no unanswered request the engine is not enabled, and that `exec` then answers the same state is
the model's choice (log 14). A source byte nobody wrote stops it (70_reset_and_hazards.md R244, log 6), and so does one at or above N
(20_memory.md R44, log 6). -/
def Obligations.TheEngineStepsOnlyOnReadableRequests : Prop :=
  ∀ (i : Instr) (s : State), i = .compress ∨ i = .decompress →
    (¬(s.bcReq.valid = true ∧ s.bcRsp.valid = false) → exec i s = .next s) ∧
    (s.bcReq.valid = true → s.bcRsp.valid = false → s.bcReq.srcLen = 0 ∨ s.bcReq.srcOff + s.bcReq.srcLen ≤ s.n →
      s.inp.readBytes s.bcReq.srcOff s.bcReq.srcLen = none → exec i s = .fault .inByteHasNoValue) ∧
    (s.bcReq.valid = true → s.bcRsp.valid = false → s.bcReq.srcLen ≠ 0 → s.n < s.bcReq.srcOff + s.bcReq.srcLen →
      exec i s = .fault .inReadBeyondN)

/-- What each phase does with the header that declares `size`, and that in every other phase a header has no place and the model
stops. That a header has a step at all, whatever IN and N hold, is the model's reading of the opcode table's row (log 13); that it is
the command's step where the command writes or finds that header (R103, R121, R122, R141) is AHeaderStepIsTheCommandsStep. -/
def Obligations.AHeaderIsWrittenAndRead : Prop :=
  ∀ (size : Word32) (s : State),
    (s.busy = true → s.phase = .e3Hdr → ∃ t : State, exec (.containerHdr size) s = .next t ∧
      t = { s with out := t.out, size := size, outPos := 12, phase := .e4Empty } ∧
      t.out.readBytes 0 12 = some (magic ++ le32Enc size) ∧ ∀ a, 12 ≤ a → t.out.read a = s.out.read a) ∧
    (s.busy = true → s.phase = .d1Magic →
      exec (.containerHdr size) s = .next { s with inPos := 8, phase := .d2Size }) ∧
    (s.busy = true → s.phase = .d2Size →
      exec (.containerHdr size) s = .next { s with size := size, inPos := 12, phase := .d3Empty }) ∧
    (s.busy = true → s.phase = .s1Magic → exec (.containerHdr size) s = .next
      { s with matched := true, status := .ok, outLen := 0, busy := false, done := true, phase := .done }) ∧
    (s.busy = false ∨ (s.phase ≠ .e3Hdr ∧ s.phase ≠ .d1Magic ∧ s.phase ≠ .d2Size ∧ s.phase ≠ .s1Magic) →
      exec (.containerHdr size) s = .refused .headerOutOfPlace)

/-- The header a command writes or finds has the step of the command. That a header has a step at all is the model's reading of the
opcode table's row (log 13); the steps themselves are those of R103, R121, R122 and R141. -/
def Obligations.AHeaderStepIsTheCommandsStep : Prop :=
  ∀ s : State, s.busy = true →
    (s.phase = .e3Hdr → exec (.containerHdr (BitVec.ofNat 32 s.n)) s = exec .encode s) ∧
    ∀ (header : Bytes) (i : Instr), hdrLen ≤ s.n → s.inp.readBytes 0 hdrLen = some header →
      decode (.container header) = .ok i →
      (s.phase = .d1Magic → exec i s = exec .decode s) ∧
      (s.phase = .d2Size → s.inPos = magicLen → exec i s = exec .decode s) ∧
      (s.phase = .s1Magic → exec i s = exec .sniff s)

/-- What an instruction leaves alone whenever it goes on. CMD, IN_LEN, MAGIC_ROM and every byte of IN always; every byte of
OUT for NOP, DECODE and SNIFF; every byte but OUT[0..12) at E3_HDR, and in every other step of ENCODE every byte; every
byte outside the destination window for the engine, which changes no register either. -/
def Obligations.FrameOfEveryInstruction : Prop :=
  ∀ (i : Instr) (s t : State), exec i s = .next t →
    t.cmd = s.cmd ∧ t.inLen = s.inLen ∧ t.rom = s.rom ∧ (∀ a, t.inp.read a = s.inp.read a) ∧
    t.turns = s.turns ∧ t.script = s.script ∧ t.replies = s.replies ∧
    (i = .nop ∨ i = .decode ∨ i = .sniff → t.fresh = s.fresh ∧ ∀ a, t.out.read a = s.out.read a) ∧
    (i = .encode → t.fresh = s.fresh ∧ (∀ a, 12 ≤ a → t.out.read a = s.out.read a) ∧
      (¬(s.busy = true ∧ s.phase = .e3Hdr) → ∀ a, t.out.read a = s.out.read a)) ∧
    (i = .compress ∨ i = .decompress →
      t = { s with out := t.out, bcRsp := t.bcRsp, fresh := t.fresh } ∧
      ∀ a, a < s.bcReq.dstOff ∨ s.bcReq.dstOff + s.bcReq.dstCap ≤ a → t.out.read a = s.out.read a) ∧
    ∀ size, i = .containerHdr size →
      t.cmdL = s.cmdL ∧ t.n = s.n ∧ t.cap = s.cap ∧ t.bcReq = s.bcReq ∧ t.bcRsp = s.bcRsp ∧ t.fresh = s.fresh ∧
      (∀ a, 12 ≤ a → t.out.read a = s.out.read a) ∧ (s.phase ≠ .e3Hdr → ∀ a, t.out.read a = s.out.read a)

/-- The rest of what `exec` answers for the four commands, so that no form is shut out. START of each at a framer that is not busy
(R166, R168; what it keeps of unspecified values is log 22, log 23, log 24). Where another command is running, the instruction is a
START while BUSY and changes nothing (R166, log 12). A byte of IN the phase reads that nobody wrote stops it
(70_reset_and_hazards.md R244, log 6), and so does one at or above N (20_memory.md R44, log 6). -/
def Obligations.CommandsOffTheirPhase : Prop :=
  (∀ (i : Instr) (code : BitVec 2) (first : Phase) (s : State),
      (i = .encode ∧ code = 1 ∧ first = .e1Size) ∨ (i = .decode ∧ code = 2 ∧ first = .d1Magic) ∨
        (i = .sniff ∧ code = 3 ∧ first = .s1Magic) →
      (s.busy = false → exec i s = .next
        { s with
          cmdL := code
          n := s.inLen
          status := .ok
          matched := false
          done := false
          outLen := 0
          errExpected := 0
          errActual := 0
          bcErrinfo := 0
          inPos := 0
          outPos := 0
          bcReq := { s.bcReq with valid := false }
          bcRsp := { s.bcRsp with valid := false }
          busy := true
          phase := first }) ∧
      (s.busy = true → s.phase.command ≠ some i → exec i s = .next s)) ∧
    (∀ s : State, s.busy = true → exec .nop s = .next s) ∧
    ∀ s : State, s.busy = true →
      (s.phase = .d1Magic → 8 ≤ s.n → s.inp.readBytes 0 8 = none → exec .decode s = .fault .inByteHasNoValue) ∧
      (s.phase = .d2Size → 4 ≤ s.n - s.inPos → 12 ≤ s.n → s.inp.readBytes 8 4 = none →
        exec .decode s = .fault .inByteHasNoValue) ∧
      (s.phase = .d2Size → 4 ≤ s.n - s.inPos → s.n < 12 → exec .decode s = .fault .inReadBeyondN) ∧
      (s.phase = .s1Magic → 8 ≤ s.n → s.inp.readBytes 0 8 = none → exec .sniff s = .fault .inByteHasNoValue)

/-! ## Errors -/

/-- 46_properties.md R188: whenever a command ends with STATUS other than OK, OUT_LEN is 0. -/
def Obligations.AFailedCommandExposesNothing : Prop :=
  ∀ (c : Config) (s t : State), s.busy = true → s.done = false → stepWith c s = .next t → t.done = true →
    t.status ≠ .ok → t.outLen = 0 ∧ exposedOutput t = some []

/-- 46_properties.md R187, 60_exceptions.md R200: the errors each command can end in, by the phase it ends from. -/
def Obligations.EachCommandFailsOnlyItsOwnWay : Prop :=
  ∀ (c : Config) (s t : State), FramerInv s → stepWith c s = .next t → s.busy = true → t.done = true →
    (s.phase.command = some .encode → t.status = .ok ∨ t.status = .sizeOverflow ∨ t.status = .compressionFailed) ∧
    (s.phase.command = some .decode → t.status = .ok ∨ t.status = .invalidFormat ∨ t.status = .decompressionFailed ∨
      t.status = .sizeMismatch) ∧
    (s.phase.command = some .sniff → t.status = .ok)

/-! ## Reset and invariants -/

/-- 10_state.md R30: the values the spec gives for reset. -/
def Obligations.ResetLeavesTheSpecsValues : Prop :=
  let s := State.reset
  s.cmd = 0 ∧ s.busy = false ∧ s.done = false ∧ s.matched = false ∧ s.status = .ok ∧ s.inLen = 0 ∧ s.outLen = 0 ∧
    s.errExpected = 0 ∧ s.errActual = 0 ∧ s.bcErrinfo = 0 ∧ s.phase = .idle ∧ s.cmdL = 0 ∧
    s.bcReq.valid = false ∧ s.bcRsp.valid = false ∧ statWord s = 0 ∧
    ∀ i, i < 8 → s.rom.byte i = [0x6d, 0x6f, 0x7a, 0x4c, 0x7a, 0x34, 0x30, 0x00][i]?

/-- 70_reset_and_hazards.md R230, R232: the reset input puts the framer there from any state, also while BUSY. That the schedule,
the host's script and what it has read stay is the model's (log 16), and so are the zeros R230 calls unspecified: those of N, SIZE,
CAP, IN_POS and OUT_POS (log 4) and of the port's payload fields (log 5). -/
def Obligations.ResetIsAMoveFromAnyState : Prop :=
  ∀ (s : State) (rest : List HostOp), pick s = some .host → s.script = .resetPin :: rest →
    step s = .next
      { State.reset with fresh := s.fresh, turns := s.turns.tail, script := rest, replies := s.replies }

/-- The invariants hold right after reset. That N, CAP and the cursors (log 4) and the port's payload fields (log 5) fit their widths
there rests on the zeros the model chose for them. -/
def Obligations.TheInvariantsHoldAtReset : Prop := FramerInv State.reset ∧ ∀ c : Config, Fits c State.reset

/-- Every step of every agent keeps the invariant R31 rests on. -/
def Obligations.EveryStepKeepsTheInvariant : Prop :=
  ∀ (c : Config) (s t : State), FramerInv s → stepWith c s = .next t → FramerInv t

/-- 10_state.md R31 (a) to (h) in every state reachable from reset under any host script and any schedule. -/
def Obligations.ReachableStatesMeetTheSpecsInvariants : Prop :=
  ∀ (k : Nat) (turns : List Agent) (script : List HostOp) (s : State),
    Host.Core.run core k { State.reset with turns := turns, script := script } = .next s → SpecInvariant s

/-- 00_scope.md R5, 20_memory.md R54, 40_datapath_primitives.md R85: no length ever needs more than LENW bits. -/
def Obligations.NoLengthEverWraps : Prop :=
  ∀ (c : Config) (s t : State), FramerInv s → Fits c s → stepWith c s = .next t → Fits c t

/-- 45_command_control.md R173: a busy framer always has the sequencer or the engine able to move, so no step is stuck. 20_memory.md
R44: nor does a step ever read IN at or above N. -/
def Obligations.ABusyFramerIsNeverStuck : Prop :=
  ∀ (c : Config) (s : State), FramerInv s →
    (s.busy = true → framerReady s = true ∨ engineReady s = true) ∧ stepWith c s ≠ .fault .stuck ∧
      (Fits c s → stepWith c s ≠ .fault .inReadBeyondN)

/-- 45_command_control.md R171: PHASE moves only along the table, and only the sequencer, START and reset move it. -/
def Obligations.PhaseMovesOnlyAlongTheTable : Prop :=
  ∀ (c : Config) (s t : State), FramerInv s → Fits c s → stepWith c s = .next t →
    (pick s = some .framer → SequencerEdge s t) ∧ (pick s = some .engine → t.phase = s.phase) ∧
      (pick s = some .host → t.phase = s.phase ∨ HostEdge s t) ∧ (pick s = none → t = s.takeTurn)

/-- 70_reset_and_hazards.md R247 with R107, R126, R171: every step of the sequencer and of the engine brings the end of the command
nearer, at most 7 of them are left, and while BUSY no host access but reset changes the number. -/
def Obligations.EveryStepBringsTheEndNearer : Prop :=
  ∀ (c : Config) (s t : State), FramerInv s → stepWith c s = .next t →
    stepsLeft s ≤ 7 ∧ (pick s = some .framer ∨ pick s = some .engine → stepsLeft t < stepsLeft s) ∧
      (pick s = some .host → s.busy = true → t.busy = true → stepsLeft t = stepsLeft s)

/-! ## Whole commands -/

/-- 41_encode.md R107: however the agents interleave and whatever the host does meanwhile, a run of ENCODE that ends has the result
`ENCODE(d)`; an input too long gives SizeOverflow whether its bytes exist or not (R101). -/
def Obligations.ARunOfEncodeComputesEncode : Prop :=
  ∀ (c : Config) (s u t : State) (k : Nat), s.busy = false → execWith c .encode s = .next u → EndsAfter c k u t →
    (∀ d : Bytes, s.inLen = d.length → s.inp.readBytes 0 d.length = some d →
      observe t = observedResult (encodeFn c d)) ∧
    (sizeMax < s.inLen → observe t = observedResult (.err .sizeOverflow))

/-- 42_decode.md R126: the same for DECODE. -/
def Obligations.ARunOfDecodeComputesDecode : Prop :=
  ∀ (c : Config) (s u t : State) (k : Nat) (b : Bytes), s.busy = false → execWith c .decode s = .next u →
    EndsAfter c k u t → s.inLen = b.length → s.inp.readBytes 0 b.length = some b →
    observe t = observedResult (decodeFn c b)

/-- 43_sniff.md R140: the same for SNIFF, whose result is MATCH, with STATUS OK and no output always. -/
def Obligations.ARunOfSniffComputesSniff : Prop :=
  ∀ (c : Config) (s u t : State) (k : Nat) (b : Bytes), s.busy = false → execWith c .sniff s = .next u →
    EndsAfter c k u t → s.inLen = b.length → s.inp.readBytes 0 b.length = some b →
    observe t = { observedResult (.ok []) with matched := sniffFn b }

/-- 70_reset_and_hazards.md R247: every command on a written input, NOP and an ENCODE above SIZE_MAX on any (R101, R244), reaches DONE, after at most 6 steps of the sequencer and 1 of the
engine, where the host does not step in between (an empty script, or the model's default schedule, log 1). -/
def Obligations.EveryCommandEnds : Prop :=
  ∀ (c : Config) (i : Instr) (s : State), i = .nop ∨ i = .encode ∨ i = .decode ∨ i = .sniff → s.busy = false →
    s.turns = [] ∨ s.script = [] →
    (∃ b : Bytes, s.inp.readBytes 0 s.inLen = some b) ∨ i = .nop ∨ (i = .encode ∧ sizeMax < s.inLen) →
    ∃ (u t : State) (k : Nat), k ≤ 7 ∧ execWith c i s = .next u ∧ EndsAfter c k u t

/-- 10_state.md R29, 46_properties.md R186: two runs of one command on equal inputs give equal results, whatever ran before, whatever
OUT and the working registers hold, whatever lies in IN beyond IN_LEN, and whatever the schedule and the host do. -/
def Obligations.TheResultDependsOnTheInputAlone : Prop :=
  ∀ (c : Config) (i : Instr) (s s' u u' t t' : State) (k k' : Nat) (b : Bytes),
    i = .nop ∨ i = .encode ∨ i = .decode ∨ i = .sniff →
    s.busy = false → s'.busy = false → s.inLen = b.length → s'.inLen = b.length →
    s.inp.readBytes 0 b.length = some b → s'.inp.readBytes 0 b.length = some b →
    execWith c i s = .next u → execWith c i s' = .next u' → EndsAfter c k u t → EndsAfter c k' u' t' →
    observe t = observe t'

/-- The round trip (R180) on the machine: ENCODE an input, give DECODE what was exposed, and the input comes back. -/
def Obligations.TheMachineRoundTrips : Prop :=
  ∀ (c : Config) (s u t s' u' t' : State) (k k' : Nat) (d : Bytes), c.Valid →
    s.busy = false → s.inLen = d.length → s.inp.readBytes 0 d.length = some d →
    execWith c .encode s = .next u → EndsAfter c k u t → t.status = .ok →
    s'.busy = false → s'.inLen = t.outLen → s'.inp.readBytes 0 s'.inLen = exposedOutput t →
    execWith c .decode s' = .next u' → EndsAfter c k' u' t' →
    t'.status = .ok ∧ t'.outLen = d.length ∧ exposedOutput t' = some d

/-! ## The commands as functions -/

/-- 46_properties.md R180. -/
def Obligations.DecodeUndoesEncode : Prop :=
  ∀ (c : Config) (d b : Bytes), c.Valid → encodeFn c d = .ok b → decodeFn c b = .ok d

/-- 46_properties.md R181. -/
def Obligations.TheEmptyInputIsTwelveBytes : Prop :=
  ∀ c : Config,
    encodeFn c [] = .ok [0x6d, 0x6f, 0x7a, 0x4c, 0x7a, 0x34, 0x30, 0x00, 0x00, 0x00, 0x00, 0x00] ∧
      decodeFn c [0x6d, 0x6f, 0x7a, 0x4c, 0x7a, 0x34, 0x30, 0x00, 0x00, 0x00, 0x00, 0x00] = .ok []

/-- 46_properties.md R182, 41_encode.md R108. -/
def Obligations.TheHeaderDoesNotDependOnTheCodec : Prop :=
  ∀ (c : Config) (d b : Bytes), encodeFn c d = .ok b →
    b.take 12 = magic ++ le32Enc (BitVec.ofNat 32 d.length) ∧ 12 ≤ b.length ∧ (d.length = 0 → b.length = 12) ∧
      sniffFn b = true

/-- 46_properties.md R183. -/
def Obligations.AWrongMagicIsRejected : Prop :=
  ∀ (c : Config) (b : Bytes), (¬∃ rest, b = magic ++ rest) →
    decodeFn c b = .err .invalidFormat ∧ sniffFn b = false

/-- 46_properties.md R184. -/
def Obligations.ATruncatedSizeFieldIsRejected : Prop :=
  ∀ (c : Config) (t : Bytes), t.length ≤ 3 →
    decodeFn c (magic ++ t) = .err .invalidFormat ∧ sniffFn (magic ++ t) = true

/-- 46_properties.md R185. -/
def Obligations.AWrongLengthIsASizeMismatch : Prop :=
  ∀ (c : Config) (size : Word32) (q w : Bytes), size ≠ 0 → c.decompressBlock q size.toNat = .ok w →
    w.length ≠ size.toNat → decodeFn c (magic ++ le32Enc size ++ q) = .err (.sizeMismatch size w.length)

/-- 43_sniff.md R142: SNIFF gives 0 exactly where DECODE fails at stage 1, and a DECODE that succeeds had a Magic. -/
def Obligations.SniffAgreesWithDecodesFirstStage : Prop :=
  ∀ (c : Config) (b : Bytes),
    (sniffFn b = false → decodeFn c b = .err .invalidFormat) ∧ (∀ w, decodeFn c b = .ok w → sniffFn b = true) ∧
      (sniffFn b = true ↔ ¬(b.length < magicLen ∨ b.take magicLen ≠ magic))

/-- 30_encoding.md R64, R66: what ENCODE produces is well-formed under BC-VALID, every well-formed Container decodes, and a zero size
followed by any bytes is accepted though, with bytes, it is not well-formed. -/
def Obligations.WellFormedContainersDecode : Prop :=
  (∀ (c : Config) (d b : Bytes), c.Valid → encodeFn c d = .ok b → WellFormedContainer c b) ∧
    (∀ (c : Config) (b : Bytes), WellFormedContainer c b → ∃ w, decodeFn c b = .ok w) ∧
    ∀ (c : Config) (t : Bytes), decodeFn c (magic ++ [0, 0, 0, 0] ++ t) = .ok [] ∧
      (t ≠ [] → ¬WellFormedContainer c (magic ++ [0, 0, 0, 0] ++ t))

/-- 46_properties.md R187: ENCODE and DECODE as functions fail only in their own ways, and ENCODE of an input that fits succeeds where
the compressor does not fail; under BC-BOUND (44_block_codec_port.md R150, log 25) it is enough that it does not fail with some
capacity at or above the bound. -/
def Obligations.EncodeSucceedsWhereTheCompressorDoes : Prop :=
  ∀ (c : Config) (d : Bytes),
    (∀ k, encodeFn c d = .err k → k = .sizeOverflow ∨ ∃ e, k = .compressionFailed e) ∧
    (∀ k, decodeFn c d = .err k → k = .invalidFormat ∨ (∃ e, k = .decompressionFailed e) ∨
      ∃ expected actual, k = .sizeMismatch expected actual ∧ actual ≠ expected.toNat ∧ expected ≠ 0) ∧
    (d.length ≤ sizeMax → (∀ src cap e, c.compressBlock src cap ≠ .fail e) → ∃ b, encodeFn c d = .ok b) ∧
    (c.BoundSuffices → d.length ≤ sizeMax →
      (∃ cap p, c.compressBound d.length ≤ cap ∧ c.compressBlock d cap = .ok p) → ∃ b, encodeFn c d = .ok b)

/-- 44_block_codec_port.md R158, R159, R160: the fixtures keep the laws BC-VALID and BC-BOUND (R151, and R150 by log 25), and neither
COPY nor LIT ever fails with its own bound or more of room. FAIL always fails, which BC-BOUND does not exclude. -/
def Obligations.TheFixturesKeepTheLaws : Prop :=
  copyCodec.Valid ∧ litCodec.Valid ∧ failCodec.Valid ∧
    copyCodec.BoundSuffices ∧ litCodec.BoundSuffices ∧ failCodec.BoundSuffices ∧
    ∀ (src : Bytes) (cap : Nat),
      (copyCodec.compressBound src.length ≤ cap → copyCodec.compressBlock src cap = .ok src) ∧
      (litCodec.compressBound src.length ≤ cap → litCodec.compressBlock src cap = .ok (litBlock src))

/-- 44_block_codec_port.md R158: ENCODE and DECODE under COPY. -/
def Obligations.CommandsUnderTheCopyFixture : Prop :=
  (∀ d : Bytes, d.length ≤ sizeMax →
      encodeFn copyCodec d = .ok (magic ++ le32Enc (BitVec.ofNat 32 d.length) ++ d)) ∧
    ∀ (size : Word32) (q : Bytes), size ≠ 0 →
      (q.length = size.toNat → decodeFn copyCodec (magic ++ le32Enc size ++ q) = .ok q) ∧
      (q.length < size.toNat →
        decodeFn copyCodec (magic ++ le32Enc size ++ q) = .err (.sizeMismatch size q.length)) ∧
      (size.toNat < q.length → decodeFn copyCodec (magic ++ le32Enc size ++ q) = .err (.decompressionFailed 2))

/-! ## The host -/

/-- 10_state.md R11 to R19, 30_encoding.md R75: what a read of each register number returns, and the fields of STAT (R13). -/
def Obligations.RegisterReadsReturnTheRegisters : Prop :=
  ∀ s : State,
    readReg s 0 = s.cmd.toNat ∧ readReg s 1 = 0 ∧ readReg s 2 = (statWord s).toNat ∧ readReg s 3 = s.inLen ∧
    readReg s 4 = s.outLen ∧ readReg s 5 = s.errExpected.toNat ∧ readReg s 6 = s.errActual ∧
    readReg s 7 = s.bcErrinfo ∧ (∀ reg, 7 < reg → readReg s reg = 0) ∧
    (statWord s).getLsbD 0 = s.busy ∧ (statWord s).getLsbD 1 = s.done ∧ (statWord s).getLsbD 2 = s.matched ∧
    (statWord s).getLsbD 3 = false ∧ (statWord s).extractLsb' 4 3 = s.status.code ∧
    (statWord s).extractLsb' 7 25 = 0

/-- 45_command_control.md R165, 30_encoding.md R75: what the host's register accesses change. A read changes nothing of the framer; a
write to CMD keeps the low 2 bits (of a value of any width, log 19), a write to IN_LEN the value, where LENW bits hold it (a wider one
is refused, log 10), a write to CTRL with bit 0 clear and every other write nothing. IFMATCH and IFOK are a read of STAT after which the
script drops their statement unless MATCH is 1, or STATUS 0; COPYBACK is a read of OUT_LEN, then the copying of that many bytes, then a
write of IN_LEN (30_encoding.md R77 by log 17). -/
def Obligations.HostRegisterAccesses : Prop :=
  ∀ (s : State) (rest : List HostOp), pick s = some .host →
    let s' : State := { s with turns := s.turns.tail, script := rest }
    (∀ reg, s.script = .rd reg :: rest → step s = .next { s' with replies := readReg s reg :: s.replies }) ∧
    (∀ v, s.script = .wr 0 v :: rest → ∃ w : Word32, w.toNat = v % 4 ∧ step s = .next { s' with cmd := w }) ∧
    (∀ v, s.script = .wr 3 v :: rest → v < 2 ^ Config.hw.lenw → step s = .next { s' with inLen := v }) ∧
    (∀ v, s.script = .wr 3 v :: rest → 2 ^ Config.hw.lenw ≤ v → step s = .refused .valueTooWide) ∧
    (∀ v, s.script = .wr 1 v :: rest → v.testBit 0 = false → step s = .next s') ∧
    (∀ reg v, s.script = .wr reg v :: rest → reg ≠ 0 → reg ≠ 1 → reg ≠ 3 → step s = .next s') ∧
    (∀ k, s.script = .ifMatch k :: rest → step s = .next
      { s' with
        replies := (statWord s).toNat :: s.replies
        script := if s.matched = true then rest else rest.drop k }) ∧
    (∀ k, s.script = .ifOk k :: rest → step s = .next
      { s' with
        replies := (statWord s).toNat :: s.replies
        script := if s.status = .ok then rest else rest.drop k }) ∧
    (s.script = .copyback :: rest → step s = .next
      { s' with
        replies := s.outLen :: s.replies
        script := (if s.outLen = 0 then .wr 3 0 else .copyRead 0 s.outLen) :: rest }) ∧
    ∀ stmt : HostStmt,
      expandStmt (.ifMatch stmt) = .ifMatch (expandStmt stmt).length :: expandStmt stmt ∧
      expandStmt (.ifOk stmt) = .ifOk (expandStmt stmt).length :: expandStmt stmt ∧
      expandStmt .copyback = [.copyback]

/-- 20_memory.md R52, 70_reset_and_hazards.md R240, R241: what the host's byte accesses do, and where they stop: writes to IN while BUSY,
to OUT and to MAGIC_ROM, reads of OUT that is not exposed, an index outside its space (10_state.md R24, log 11), a byte of IN nobody
wrote (R244, log 6). The copying of COPYBACK is one read of OUT and one write of IN for each byte (30_encoding.md R77, log 17). -/
def Obligations.HostByteAccesses : Prop :=
  ∀ (s : State) (rest : List HostOp), pick s = some .host →
    let s' : State := { s with turns := s.turns.tail, script := rest }
    (∀ i b, s.script = .wb .inp i b :: rest → s.busy = true → step s = .refused .hostWroteInWhileBusy) ∧
    (∀ i b, s.script = .wb .inp i b :: rest → s.busy = false → i < 2 ^ Config.hw.lenw → ∃ t : State, step s = .next t ∧
      t = { s' with inp := t.inp } ∧ t.inp.read i = some b ∧ ∀ a, a ≠ i → t.inp.read a = s.inp.read a) ∧
    (∀ i b, s.script = .wb .inp i b :: rest → s.busy = false → 2 ^ Config.hw.lenw ≤ i → step s = .fault .noSuchIndex) ∧
    (∀ i b, s.script = .wb .out i b :: rest → step s = .refused .hostWroteOut) ∧
    (∀ i b, s.script = .wb .magicRom i b :: rest → step s = .refused .hostWroteMagicRom) ∧
    (∀ i, s.script = .rb .inp i :: rest → 2 ^ Config.hw.lenw ≤ i → step s = .fault .noSuchIndex) ∧
    (∀ i, s.script = .rb .inp i :: rest → i < 2 ^ Config.hw.lenw → s.inp.read i = none →
      step s = .fault .inByteHasNoValue) ∧
    (∀ i b, s.script = .rb .inp i :: rest → i < 2 ^ Config.hw.lenw → s.inp.read i = some b →
      step s = .next { s' with replies := b.toNat :: s.replies }) ∧
    (∀ i b, s.script = .rb .out i :: rest → s.done = true → i < s.outLen → s.out.read i = some b →
      step s = .next { s' with replies := b.toNat :: s.replies }) ∧
    (∀ i, s.script = .rb .out i :: rest → s.done = true → i < s.outLen → s.out.read i = none →
      step s = .fault .outByteHasNoValue) ∧
    (∀ i, s.script = .rb .out i :: rest → ¬(s.done = true ∧ i < s.outLen) → step s = .refused .hostReadHiddenOut) ∧
    (∀ i b, s.script = .rb .magicRom i :: rest → magic[i]? = some b →
      step s = .next { s' with replies := b.toNat :: s.replies }) ∧
    (∀ i, s.script = .rb .magicRom i :: rest → 8 ≤ i → step s = .fault .noSuchIndex) ∧
    (∀ i m b, s.script = .copyRead i m :: rest → s.done = true → i < s.outLen → s.out.read i = some b →
      step s = .next { s' with replies := b.toNat :: s.replies, script := .copyWrite i m b :: rest }) ∧
    (∀ i m, s.script = .copyRead i m :: rest → ¬(s.done = true ∧ i < s.outLen) → step s = .refused .hostReadHiddenOut) ∧
    (∀ i m b, s.script = .copyWrite i m b :: rest → s.busy = false → 2 ^ Config.hw.lenw ≤ i →
      step s = .fault .noSuchIndex) ∧
    (∀ i m b, s.script = .copyWrite i m b :: rest → s.busy = true → step s = .refused .hostWroteInWhileBusy) ∧
    ∀ i m b, s.script = .copyWrite i m b :: rest → s.busy = false → i < 2 ^ Config.hw.lenw →
      ∃ t : State, step s = .next t ∧
        t = { s' with inp := t.inp, script := (if i + 1 < m then .copyRead (i + 1) m else .wr 3 m) :: rest } ∧
        t.inp.read i = some b ∧ ∀ a, a ≠ i → t.inp.read a = s.inp.read a

/-- 45_command_control.md R172: WAIT reads STAT until DONE is 1 and changes nothing of the framer. -/
def Obligations.WaitPollsStat : Prop :=
  ∀ (s : State) (rest : List HostOp), pick s = some .host → s.script = .wait :: rest →
    step s = .next
      { s with
        turns := s.turns.tail
        script := if s.done = true then rest else .wait :: rest
        replies := (statWord s).toNat :: s.replies }
end

