-- ==== Sys2Proof/Laws/Configured.lean ====
section
/-! SUPPORT. `exec` and `step` are the configured machine at the hardware's own configuration. -/

namespace Sys2Proof.Machine

theorem exec_eq_execWith (i : Instr) (s : State) : exec i s = execWith Config.hw i s := by
  cases i <;> rfl

theorem step_eq_stepWith (s : State) : step s = stepWith Config.hw s := by
  have h : exec = execWith Config.hw := by
    funext i s
    exact exec_eq_execWith i s
  simp only [step, stepWith, h]

theorem core_run_eq_runWith (k : Nat) (s : State) : Host.Core.run core k s = runWith Config.hw k s := by
  induction k generalizing s with
  | zero => rfl
  | succ k ih =>
    have hs : core.step s = stepWith Config.hw s := step_eq_stepWith s
    simp only [Host.Core.run, runWith]
    rw [hs]
    cases stepWith Config.hw s with
    | next t => exact ih t
    | fault f => rfl
    | refused r => rfl

/-- A run of `k + 1` steps is a run of `k` steps and one step more. -/
theorem runWith_succ (c : Config) (k : Nat) (s u : State) (h : runWith c k s = .next u) :
    runWith c (k + 1) s = stepWith c u := by
  induction k generalizing s with
  | zero =>
    cases h
    simp only [runWith]
    cases stepWith c u <;> rfl
  | succ k ih =>
    rw [runWith] at h ⊢
    cases hs : stepWith c s with
    | next t => rw [hs] at h; exact ih t h
    | fault f => rw [hs] at h; cases h
    | refused r => rw [hs] at h; cases h

/-- A run that goes on for `k + 1` steps went on for `k`. -/
theorem runWith_of_succ (c : Config) (k : Nat) (s t : State) (h : runWith c (k + 1) s = .next t) :
    ∃ u, runWith c k s = .next u ∧ stepWith c u = .next t := by
  induction k generalizing s with
  | zero =>
    refine ⟨s, rfl, ?_⟩
    rw [runWith] at h
    cases hs : stepWith c s with
    | next u => rw [hs] at h; exact h
    | fault f => rw [hs] at h; cases h
    | refused r => rw [hs] at h; cases h
  | succ k ih =>
    rw [runWith] at h
    cases hs : stepWith c s with
    | next u =>
      rw [hs] at h
      obtain ⟨v, hv, ht⟩ := ih u h
      exact ⟨v, by rw [runWith, hs]; exact hv, ht⟩
    | fault f => rw [hs] at h; cases h
    | refused r => rw [hs] at h; cases h

/-- An invariant of the step holds along every run from a state that has it. -/
theorem runWith_keeps (c : Config) (P : State → Prop) (step_keeps : ∀ s t, P s → stepWith c s = .next t → P t)
    (k : Nat) (s t : State) (hs : P s) (h : runWith c k s = .next t) : P t := by
  induction k generalizing t with
  | zero => cases h; exact hs
  | succ k ih =>
    obtain ⟨u, hu, ht⟩ := runWith_of_succ c k s t h
    exact step_keeps u t (ih u hu) ht

end Sys2Proof.Machine
end

