-- ==== Sys2Proof/Laws/Memory.lean ====
section
/-! SUPPORT. The byte spaces: what a read sees after a write, and that every operation keeps the canonical form. -/

namespace Sys2Proof.Machine

theorem Memory.wf_iff (m : Memory) : m.wf = true ↔ m.Pairwise (fun a b => a.1 < b.1) := by
  simp [Memory.wf]

@[simp] theorem Memory.wf_nil : Memory.wf [] = true := by simp [Memory.wf_iff]

theorem Memory.wf_cons (cell : Host.Cell) (m : Memory) :
    Memory.wf (cell :: m) = true ↔ (∀ x ∈ m, cell.1 < x.1) ∧ m.wf = true := by
  simp [Memory.wf_iff, List.pairwise_cons]

@[simp] theorem Memory.read_nil (i : Nat) : Memory.read [] i = none := rfl

/-- A read after a write to the same index gives the byte written. -/
@[simp] theorem Memory.read_write_same (m : Memory) (i : Nat) (b : Byte) : (m.write i b).read i = some b := by
  induction m with
  | nil => simp [Memory.write, Memory.read]
  | cons cell m ih =>
    obtain ⟨k, v⟩ := cell
    simp only [Memory.write]
    split
    · simp [Memory.read]
    · split
      · simp [Memory.read]
      · simp only [Memory.read]
        rw [if_neg (by omega), ih]

/-- A write leaves every other index alone. -/
theorem Memory.read_write_of_ne (m : Memory) {i j : Nat} (b : Byte) (h : j ≠ i) :
    (m.write i b).read j = m.read j := by
  induction m with
  | nil => simp [Memory.write, Memory.read, h.symm]
  | cons cell m ih =>
    obtain ⟨k, v⟩ := cell
    simp only [Memory.write]
    split
    · simp [Memory.read, h.symm]
    · split
      · subst_vars
        simp [Memory.read, h.symm]
      · simp only [Memory.read, ih]

theorem Memory.mem_write {m : Memory} {i : Nat} {b : Byte} {x : Host.Cell} (h : x ∈ m.write i b) :
    x = (i, b) ∨ x ∈ m := by
  induction m with
  | nil => simpa [Memory.write] using h
  | cons cell m ih =>
    obtain ⟨k, v⟩ := cell
    simp only [Memory.write] at h
    split at h
    · simpa using h
    · split at h
      · simp only [List.mem_cons] at h ⊢
        tauto
      · simp only [List.mem_cons] at h ⊢
        rcases h with h | h
        · tauto
        · rcases ih h with h | h <;> tauto

/-- A write keeps the canonical form. -/
@[simp] theorem Memory.wf_write (m : Memory) (i : Nat) (b : Byte) (h : m.wf = true) : (m.write i b).wf = true := by
  induction m with
  | nil => simp [Memory.write, Memory.wf_cons]
  | cons cell m ih =>
    obtain ⟨k, v⟩ := cell
    obtain ⟨hk, hm⟩ := (Memory.wf_cons _ _).1 h
    simp only [Memory.write]
    split
    · refine (Memory.wf_cons _ _).2 ⟨?_, h⟩
      intro x hx
      simp only [List.mem_cons] at hx
      rcases hx with rfl | hx
      · assumption
      · have := hk x hx
        simp only at this ⊢
        omega
    · split
      · subst_vars
        exact (Memory.wf_cons _ _).2 ⟨hk, hm⟩
      · refine (Memory.wf_cons _ _).2 ⟨?_, ih hm⟩
        intro x hx
        rcases Memory.mem_write hx with rfl | hx
        · simp only; omega
        · exact hk x hx

@[simp] theorem Memory.wf_writeBytes (m : Memory) (i : Nat) (bs : Bytes) (h : m.wf = true) :
    (m.writeBytes i bs).wf = true := by
  induction bs generalizing m i with
  | nil => exact h
  | cons b bs ih => exact ih _ _ (Memory.wf_write m i b h)

/-- Making bytes unspecified keeps the canonical form. -/
@[simp] theorem Memory.wf_forget (m : Memory) (lo len : Nat) (h : m.wf = true) : (m.forget lo len).wf = true := by
  rw [Memory.wf_iff] at *
  exact h.filter _

theorem Memory.mem_forget {m : Memory} {lo len : Nat} {x : Host.Cell} (h : x ∈ m.forget lo len) : x ∈ m :=
  List.mem_of_mem_filter h

theorem Memory.mem_writeBytes {m : Memory} {i : Nat} {bs : Bytes} {x : Host.Cell} (h : x ∈ m.writeBytes i bs) :
    (i ≤ x.1 ∧ x.1 < i + bs.length) ∨ x ∈ m := by
  induction bs generalizing m i with
  | nil => exact .inr h
  | cons b bs ih =>
    rcases ih h with h | h
    · left
      simp only [List.length_cons]
      omega
    · rcases Memory.mem_write h with rfl | h
      · left
        simp
      · exact .inr h

/-- Bytes outside the stored ones are unchanged. -/
theorem Memory.read_writeBytes_outside (m : Memory) {i j : Nat} (bs : Bytes) (h : j < i ∨ i + bs.length ≤ j) :
    (m.writeBytes i bs).read j = m.read j := by
  induction bs generalizing m i with
  | nil => rfl
  | cons b bs ih =>
    simp only [List.length_cons] at h
    simp only [Memory.writeBytes]
    rw [ih _ (by omega), Memory.read_write_of_ne _ _ (by omega)]

/-- A stored byte reads back. -/
theorem Memory.read_writeBytes_inside (m : Memory) (i : Nat) (bs : Bytes) (k : Nat) (h : k < bs.length) :
    (m.writeBytes i bs).read (i + k) = some bs[k] := by
  induction bs generalizing m i k with
  | nil => simp at h
  | cons b bs ih =>
    simp only [Memory.writeBytes]
    cases k with
    | zero =>
      rw [Memory.read_writeBytes_outside _ _ (by omega)]
      simp
    | succ k =>
      have := ih (m.write i b) (i + 1) k (by simpa using h)
      rw [show i + (k + 1) = i + 1 + k by omega]
      simpa using this

/-- Bytes outside the window made unspecified are unchanged. -/
theorem Memory.read_forget_outside (m : Memory) {lo len j : Nat} (h : j < lo ∨ lo + len ≤ j) :
    (m.forget lo len).read j = m.read j := by
  induction m with
  | nil => rfl
  | cons cell m ih =>
    obtain ⟨k, v⟩ := cell
    simp only [Memory.forget, List.filter_cons] at ih ⊢
    split
    · simp only [Memory.read, ih]
    · rename_i hk
      simp only [Bool.or_eq_true, decide_eq_true_eq] at hk
      simp only [Memory.read]
      rw [if_neg (by omega), ih]

/-- Bytes inside the window made unspecified hold no value. -/
theorem Memory.read_forget_inside (m : Memory) {lo len j : Nat} (h : lo ≤ j ∧ j < lo + len) :
    (m.forget lo len).read j = none := by
  induction m with
  | nil => rfl
  | cons cell m ih =>
    obtain ⟨k, v⟩ := cell
    simp only [Memory.forget, List.filter_cons] at ih ⊢
    split
    · rename_i hk
      simp only [Bool.or_eq_true, decide_eq_true_eq] at hk
      simp only [Memory.read]
      rw [if_neg (by omega), ih]
    · exact ih

/-- A listed cell is what a read of its index gives, in a canonical memory. -/
theorem Memory.read_eq_some_iff {m : Memory} (h : m.wf = true) (i : Nat) (b : Byte) :
    m.read i = some b ↔ (i, b) ∈ m := by
  induction m with
  | nil => simp
  | cons cell m ih =>
    obtain ⟨k, v⟩ := cell
    obtain ⟨hk, hm⟩ := (Memory.wf_cons _ _).1 h
    simp only [Memory.read, List.mem_cons, Prod.mk.injEq]
    split
    · subst_vars
      constructor
      · intro h; left; exact ⟨rfl, (Option.some.inj h).symm⟩
      · rintro (⟨-, rfl⟩ | h)
        · rfl
        · exact absurd (hk _ h) (by simp)
    · rw [ih hm]
      constructor
      · exact .inr
      · rintro (⟨h, -⟩ | h)
        · omega
        · exact h

/-- Equal memories are equal data: two canonical memories that read alike are the same list. -/
theorem Memory.eq_of_read_eq {m m' : Memory} (h : m.wf = true) (h' : m'.wf = true)
    (same : ∀ i, m.read i = m'.read i) : m = m' := by
  have mem : ∀ x, x ∈ m ↔ x ∈ m' := by
    rintro ⟨i, b⟩
    rw [← Memory.read_eq_some_iff h, ← Memory.read_eq_some_iff h', same]
  rw [Memory.wf_iff] at h h'
  refine List.Perm.eq_of_pairwise (le := fun a b : Host.Cell => a.1 < b.1) ?_ h h' ?_
  · intro a b _ _ hab hba
    omega
  · refine (List.perm_ext_iff_of_nodup ?_ ?_).2 mem
    · exact h.imp (fun hab heq => by subst heq; omega)
    · exact h'.imp (fun hab heq => by subst heq; omega)

@[simp] theorem Memory.readBytes_zero (m : Memory) (a : Nat) : m.readBytes a 0 = some [] := rfl

/-- Reading `n + 1` bytes is reading the first and then the rest. -/
theorem Memory.readBytes_succ (m : Memory) (a n : Nat) :
    m.readBytes a (n + 1) = (m.read a).bind fun b => (m.readBytes (a + 1) n).map (b :: ·) := by
  simp only [Memory.readBytes]
  cases m.read a with
  | none => rfl
  | some b => cases m.readBytes (a + 1) n <;> rfl

/-- What reading a range means: as many bytes as asked for, each the one at its index. -/
theorem Memory.readBytes_eq_some_iff (m : Memory) (a n : Nat) (bs : Bytes) :
    m.readBytes a n = some bs ↔ bs.length = n ∧ ∀ k, k < n → m.read (a + k) = bs[k]? := by
  induction n generalizing a bs with
  | zero =>
    simp only [Memory.readBytes_zero, Option.some.injEq, Nat.not_lt_zero, false_imp_iff, implies_true, and_true]
    exact ⟨by rintro rfl; rfl, fun h => (List.length_eq_zero_iff.1 h).symm⟩
  | succ n ih =>
    rw [Memory.readBytes_succ]
    cases hr : m.read a with
    | none =>
      simp only [Option.bind_none, reduceCtorEq, false_iff, not_and]
      intro hl h
      have := h 0 (by omega)
      simp only [Nat.add_zero, hr] at this
      rw [List.getElem?_eq_getElem (by omega)] at this
      cases this
    | some b =>
      simp only [Option.bind_some, Option.map_eq_some_iff]
      constructor
      · rintro ⟨bs', h, rfl⟩
        obtain ⟨hl, h⟩ := (ih (a + 1) bs').1 h
        refine ⟨by simp [hl], ?_⟩
        rintro (_ | k) hk
        · simpa using hr
        · rw [show a + (k + 1) = a + 1 + k by omega, h k (by omega)]
          simp
      · rintro ⟨hl, h⟩
        cases bs with
        | nil => simp at hl
        | cons b' bs =>
          have h0 := h 0 (by omega)
          simp only [Nat.add_zero, hr, List.getElem?_cons_zero, Option.some.injEq] at h0
          subst h0
          refine ⟨bs, (ih (a + 1) bs).2 ⟨by simpa using hl, ?_⟩, rfl⟩
          intro k hk
          have := h (k + 1) (by omega)
          rw [show a + 1 + k = a + (k + 1) by omega, this]
          simp

/-- Reading a range depends on the bytes of the range alone. -/
theorem Memory.readBytes_congr {m m' : Memory} {a n : Nat} (h : ∀ i, a ≤ i → i < a + n → m.read i = m'.read i) :
    m.readBytes a n = m'.readBytes a n := by
  induction n generalizing a with
  | zero => rfl
  | succ n ih =>
    rw [Memory.readBytes_succ, Memory.readBytes_succ, h a (by omega) (by omega),
      ih (fun i hi hi' => h i (by omega) (by omega))]

/-- The bytes just stored read back as they were given. -/
@[simp] theorem Memory.readBytes_writeBytes (m : Memory) (a : Nat) (bs : Bytes) :
    (m.writeBytes a bs).readBytes a bs.length = some bs := by
  rw [Memory.readBytes_eq_some_iff]
  refine ⟨rfl, fun k hk => ?_⟩
  rw [Memory.read_writeBytes_inside m a bs k hk, List.getElem?_eq_getElem hk]

/-- What it means for a range of IN to lie below N. -/
theorem insideInput_iff (n addr len : Nat) : insideInput n addr len = true ↔ len = 0 ∨ addr + len ≤ n := by
  simp [insideInput]

/-- The size field lies below N exactly where a whole header does. -/
theorem insideInput_size_iff (n : Nat) : insideInput n magicLen sizeLen = true ↔ hdrLen ≤ n := by
  simp [insideInput_iff, magicLen, sizeLen, hdrLen]

end Sys2Proof.Machine
end

