-- ==== Sys2Proof/Laws/State.lean ====
section
/-! SUPPORT. One lemma per field and named update of State, true by definition, so that no later proof unfolds an update. -/

namespace Sys2Proof.Machine

variable (s : State)

@[simp] theorem State.goto_cmd (p : Phase) : (s.goto p).cmd = s.cmd := rfl
@[simp] theorem State.goto_busy (p : Phase) : (s.goto p).busy = s.busy := rfl
@[simp] theorem State.goto_done (p : Phase) : (s.goto p).done = s.done := rfl
@[simp] theorem State.goto_matched (p : Phase) : (s.goto p).matched = s.matched := rfl
@[simp] theorem State.goto_status (p : Phase) : (s.goto p).status = s.status := rfl
@[simp] theorem State.goto_inLen (p : Phase) : (s.goto p).inLen = s.inLen := rfl
@[simp] theorem State.goto_outLen (p : Phase) : (s.goto p).outLen = s.outLen := rfl
@[simp] theorem State.goto_errExpected (p : Phase) : (s.goto p).errExpected = s.errExpected := rfl
@[simp] theorem State.goto_errActual (p : Phase) : (s.goto p).errActual = s.errActual := rfl
@[simp] theorem State.goto_bcErrinfo (p : Phase) : (s.goto p).bcErrinfo = s.bcErrinfo := rfl
@[simp] theorem State.goto_phase (p : Phase) : (s.goto p).phase = p := rfl
@[simp] theorem State.goto_cmdL (p : Phase) : (s.goto p).cmdL = s.cmdL := rfl
@[simp] theorem State.goto_n (p : Phase) : (s.goto p).n = s.n := rfl
@[simp] theorem State.goto_size (p : Phase) : (s.goto p).size = s.size := rfl
@[simp] theorem State.goto_cap (p : Phase) : (s.goto p).cap = s.cap := rfl
@[simp] theorem State.goto_inPos (p : Phase) : (s.goto p).inPos = s.inPos := rfl
@[simp] theorem State.goto_outPos (p : Phase) : (s.goto p).outPos = s.outPos := rfl
@[simp] theorem State.goto_inp (p : Phase) : (s.goto p).inp = s.inp := rfl
@[simp] theorem State.goto_out (p : Phase) : (s.goto p).out = s.out := rfl
@[simp] theorem State.goto_rom (p : Phase) : (s.goto p).rom = s.rom := rfl
@[simp] theorem State.goto_bcReq (p : Phase) : (s.goto p).bcReq = s.bcReq := rfl
@[simp] theorem State.goto_bcRsp (p : Phase) : (s.goto p).bcRsp = s.bcRsp := rfl
@[simp] theorem State.goto_fresh (p : Phase) : (s.goto p).fresh = s.fresh := rfl
@[simp] theorem State.goto_turns (p : Phase) : (s.goto p).turns = s.turns := rfl
@[simp] theorem State.goto_script (p : Phase) : (s.goto p).script = s.script := rfl
@[simp] theorem State.goto_replies (p : Phase) : (s.goto p).replies = s.replies := rfl

@[simp] theorem State.launch_cmd (code : BitVec 2) (first : Phase) : (s.launch code first).cmd = s.cmd := rfl
@[simp] theorem State.launch_busy (code : BitVec 2) (first : Phase) : (s.launch code first).busy = true := rfl
@[simp] theorem State.launch_done (code : BitVec 2) (first : Phase) : (s.launch code first).done = false := rfl
@[simp] theorem State.launch_matched (code : BitVec 2) (first : Phase) : (s.launch code first).matched = false := rfl
@[simp] theorem State.launch_status (code : BitVec 2) (first : Phase) : (s.launch code first).status = .ok := rfl
@[simp] theorem State.launch_inLen (code : BitVec 2) (first : Phase) : (s.launch code first).inLen = s.inLen := rfl
@[simp] theorem State.launch_outLen (code : BitVec 2) (first : Phase) : (s.launch code first).outLen = 0 := rfl
@[simp] theorem State.launch_errExpected (code : BitVec 2) (first : Phase) : (s.launch code first).errExpected = 0 := rfl
@[simp] theorem State.launch_errActual (code : BitVec 2) (first : Phase) : (s.launch code first).errActual = 0 := rfl
@[simp] theorem State.launch_bcErrinfo (code : BitVec 2) (first : Phase) : (s.launch code first).bcErrinfo = 0 := rfl
@[simp] theorem State.launch_phase (code : BitVec 2) (first : Phase) : (s.launch code first).phase = first := rfl
@[simp] theorem State.launch_cmdL (code : BitVec 2) (first : Phase) : (s.launch code first).cmdL = code := rfl
@[simp] theorem State.launch_n (code : BitVec 2) (first : Phase) : (s.launch code first).n = s.inLen := rfl
@[simp] theorem State.launch_size (code : BitVec 2) (first : Phase) : (s.launch code first).size = s.size := rfl
@[simp] theorem State.launch_cap (code : BitVec 2) (first : Phase) : (s.launch code first).cap = s.cap := rfl
@[simp] theorem State.launch_inPos (code : BitVec 2) (first : Phase) : (s.launch code first).inPos = 0 := rfl
@[simp] theorem State.launch_outPos (code : BitVec 2) (first : Phase) : (s.launch code first).outPos = 0 := rfl
@[simp] theorem State.launch_inp (code : BitVec 2) (first : Phase) : (s.launch code first).inp = s.inp := rfl
@[simp] theorem State.launch_out (code : BitVec 2) (first : Phase) : (s.launch code first).out = s.out := rfl
@[simp] theorem State.launch_rom (code : BitVec 2) (first : Phase) : (s.launch code first).rom = s.rom := rfl
@[simp] theorem State.launch_bcReq (code : BitVec 2) (first : Phase) : (s.launch code first).bcReq = { s.bcReq with valid := false } := rfl
@[simp] theorem State.launch_bcRsp (code : BitVec 2) (first : Phase) : (s.launch code first).bcRsp = { s.bcRsp with valid := false } := rfl
@[simp] theorem State.launch_fresh (code : BitVec 2) (first : Phase) : (s.launch code first).fresh = s.fresh := rfl
@[simp] theorem State.launch_turns (code : BitVec 2) (first : Phase) : (s.launch code first).turns = s.turns := rfl
@[simp] theorem State.launch_script (code : BitVec 2) (first : Phase) : (s.launch code first).script = s.script := rfl
@[simp] theorem State.launch_replies (code : BitVec 2) (first : Phase) : (s.launch code first).replies = s.replies := rfl

@[simp] theorem State.complete_cmd (len : Nat) : (s.complete len).cmd = s.cmd := rfl
@[simp] theorem State.complete_busy (len : Nat) : (s.complete len).busy = false := rfl
@[simp] theorem State.complete_done (len : Nat) : (s.complete len).done = true := rfl
@[simp] theorem State.complete_matched (len : Nat) : (s.complete len).matched = s.matched := rfl
@[simp] theorem State.complete_status (len : Nat) : (s.complete len).status = .ok := rfl
@[simp] theorem State.complete_inLen (len : Nat) : (s.complete len).inLen = s.inLen := rfl
@[simp] theorem State.complete_outLen (len : Nat) : (s.complete len).outLen = len := rfl
@[simp] theorem State.complete_errExpected (len : Nat) : (s.complete len).errExpected = s.errExpected := rfl
@[simp] theorem State.complete_errActual (len : Nat) : (s.complete len).errActual = s.errActual := rfl
@[simp] theorem State.complete_bcErrinfo (len : Nat) : (s.complete len).bcErrinfo = s.bcErrinfo := rfl
@[simp] theorem State.complete_phase (len : Nat) : (s.complete len).phase = .done := rfl
@[simp] theorem State.complete_cmdL (len : Nat) : (s.complete len).cmdL = s.cmdL := rfl
@[simp] theorem State.complete_n (len : Nat) : (s.complete len).n = s.n := rfl
@[simp] theorem State.complete_size (len : Nat) : (s.complete len).size = s.size := rfl
@[simp] theorem State.complete_cap (len : Nat) : (s.complete len).cap = s.cap := rfl
@[simp] theorem State.complete_inPos (len : Nat) : (s.complete len).inPos = s.inPos := rfl
@[simp] theorem State.complete_outPos (len : Nat) : (s.complete len).outPos = s.outPos := rfl
@[simp] theorem State.complete_inp (len : Nat) : (s.complete len).inp = s.inp := rfl
@[simp] theorem State.complete_out (len : Nat) : (s.complete len).out = s.out := rfl
@[simp] theorem State.complete_rom (len : Nat) : (s.complete len).rom = s.rom := rfl
@[simp] theorem State.complete_bcReq (len : Nat) : (s.complete len).bcReq = s.bcReq := rfl
@[simp] theorem State.complete_bcRsp (len : Nat) : (s.complete len).bcRsp = s.bcRsp := rfl
@[simp] theorem State.complete_fresh (len : Nat) : (s.complete len).fresh = s.fresh := rfl
@[simp] theorem State.complete_turns (len : Nat) : (s.complete len).turns = s.turns := rfl
@[simp] theorem State.complete_script (len : Nat) : (s.complete len).script = s.script := rfl
@[simp] theorem State.complete_replies (len : Nat) : (s.complete len).replies = s.replies := rfl

@[simp] theorem State.raise_cmd (k : ErrorKind) : (s.raise k).cmd = s.cmd := rfl
@[simp] theorem State.raise_busy (k : ErrorKind) : (s.raise k).busy = false := rfl
@[simp] theorem State.raise_done (k : ErrorKind) : (s.raise k).done = true := rfl
@[simp] theorem State.raise_matched (k : ErrorKind) : (s.raise k).matched = s.matched := rfl
@[simp] theorem State.raise_status (k : ErrorKind) : (s.raise k).status = k.status := rfl
@[simp] theorem State.raise_inLen (k : ErrorKind) : (s.raise k).inLen = s.inLen := rfl
@[simp] theorem State.raise_outLen (k : ErrorKind) : (s.raise k).outLen = 0 := rfl
@[simp] theorem State.raise_errExpected (k : ErrorKind) : (s.raise k).errExpected = k.expected s.errExpected := rfl
@[simp] theorem State.raise_errActual (k : ErrorKind) : (s.raise k).errActual = k.actual s.errActual := rfl
@[simp] theorem State.raise_bcErrinfo (k : ErrorKind) : (s.raise k).bcErrinfo = k.errinfo s.bcErrinfo := rfl
@[simp] theorem State.raise_phase (k : ErrorKind) : (s.raise k).phase = .done := rfl
@[simp] theorem State.raise_cmdL (k : ErrorKind) : (s.raise k).cmdL = s.cmdL := rfl
@[simp] theorem State.raise_n (k : ErrorKind) : (s.raise k).n = s.n := rfl
@[simp] theorem State.raise_size (k : ErrorKind) : (s.raise k).size = s.size := rfl
@[simp] theorem State.raise_cap (k : ErrorKind) : (s.raise k).cap = s.cap := rfl
@[simp] theorem State.raise_inPos (k : ErrorKind) : (s.raise k).inPos = s.inPos := rfl
@[simp] theorem State.raise_outPos (k : ErrorKind) : (s.raise k).outPos = s.outPos := rfl
@[simp] theorem State.raise_inp (k : ErrorKind) : (s.raise k).inp = s.inp := rfl
@[simp] theorem State.raise_out (k : ErrorKind) : (s.raise k).out = s.out := rfl
@[simp] theorem State.raise_rom (k : ErrorKind) : (s.raise k).rom = s.rom := rfl
@[simp] theorem State.raise_bcReq (k : ErrorKind) : (s.raise k).bcReq = s.bcReq := rfl
@[simp] theorem State.raise_bcRsp (k : ErrorKind) : (s.raise k).bcRsp = s.bcRsp := rfl
@[simp] theorem State.raise_fresh (k : ErrorKind) : (s.raise k).fresh = s.fresh := rfl
@[simp] theorem State.raise_turns (k : ErrorKind) : (s.raise k).turns = s.turns := rfl
@[simp] theorem State.raise_script (k : ErrorKind) : (s.raise k).script = s.script := rfl
@[simp] theorem State.raise_replies (k : ErrorKind) : (s.raise k).replies = s.replies := rfl

@[simp] theorem State.post_cmd (req : BcReq) : (s.post req).cmd = s.cmd := rfl
@[simp] theorem State.post_busy (req : BcReq) : (s.post req).busy = s.busy := rfl
@[simp] theorem State.post_done (req : BcReq) : (s.post req).done = s.done := rfl
@[simp] theorem State.post_matched (req : BcReq) : (s.post req).matched = s.matched := rfl
@[simp] theorem State.post_status (req : BcReq) : (s.post req).status = s.status := rfl
@[simp] theorem State.post_inLen (req : BcReq) : (s.post req).inLen = s.inLen := rfl
@[simp] theorem State.post_outLen (req : BcReq) : (s.post req).outLen = s.outLen := rfl
@[simp] theorem State.post_errExpected (req : BcReq) : (s.post req).errExpected = s.errExpected := rfl
@[simp] theorem State.post_errActual (req : BcReq) : (s.post req).errActual = s.errActual := rfl
@[simp] theorem State.post_bcErrinfo (req : BcReq) : (s.post req).bcErrinfo = s.bcErrinfo := rfl
@[simp] theorem State.post_phase (req : BcReq) : (s.post req).phase = s.phase := rfl
@[simp] theorem State.post_cmdL (req : BcReq) : (s.post req).cmdL = s.cmdL := rfl
@[simp] theorem State.post_n (req : BcReq) : (s.post req).n = s.n := rfl
@[simp] theorem State.post_size (req : BcReq) : (s.post req).size = s.size := rfl
@[simp] theorem State.post_cap (req : BcReq) : (s.post req).cap = s.cap := rfl
@[simp] theorem State.post_inPos (req : BcReq) : (s.post req).inPos = s.inPos := rfl
@[simp] theorem State.post_outPos (req : BcReq) : (s.post req).outPos = s.outPos := rfl
@[simp] theorem State.post_inp (req : BcReq) : (s.post req).inp = s.inp := rfl
@[simp] theorem State.post_out (req : BcReq) : (s.post req).out = s.out := rfl
@[simp] theorem State.post_rom (req : BcReq) : (s.post req).rom = s.rom := rfl
@[simp] theorem State.post_bcReq (req : BcReq) : (s.post req).bcReq = req := rfl
@[simp] theorem State.post_bcRsp (req : BcReq) : (s.post req).bcRsp = s.bcRsp := rfl
@[simp] theorem State.post_fresh (req : BcReq) : (s.post req).fresh = s.fresh := rfl
@[simp] theorem State.post_turns (req : BcReq) : (s.post req).turns = s.turns := rfl
@[simp] theorem State.post_script (req : BcReq) : (s.post req).script = s.script := rfl
@[simp] theorem State.post_replies (req : BcReq) : (s.post req).replies = s.replies := rfl

@[simp] theorem State.consume_cmd : (s.consume).cmd = s.cmd := rfl
@[simp] theorem State.consume_busy : (s.consume).busy = s.busy := rfl
@[simp] theorem State.consume_done : (s.consume).done = s.done := rfl
@[simp] theorem State.consume_matched : (s.consume).matched = s.matched := rfl
@[simp] theorem State.consume_status : (s.consume).status = s.status := rfl
@[simp] theorem State.consume_inLen : (s.consume).inLen = s.inLen := rfl
@[simp] theorem State.consume_outLen : (s.consume).outLen = s.outLen := rfl
@[simp] theorem State.consume_errExpected : (s.consume).errExpected = s.errExpected := rfl
@[simp] theorem State.consume_errActual : (s.consume).errActual = s.errActual := rfl
@[simp] theorem State.consume_bcErrinfo : (s.consume).bcErrinfo = s.bcErrinfo := rfl
@[simp] theorem State.consume_phase : (s.consume).phase = s.phase := rfl
@[simp] theorem State.consume_cmdL : (s.consume).cmdL = s.cmdL := rfl
@[simp] theorem State.consume_n : (s.consume).n = s.n := rfl
@[simp] theorem State.consume_size : (s.consume).size = s.size := rfl
@[simp] theorem State.consume_cap : (s.consume).cap = s.cap := rfl
@[simp] theorem State.consume_inPos : (s.consume).inPos = s.inPos := rfl
@[simp] theorem State.consume_outPos : (s.consume).outPos = s.outPos := rfl
@[simp] theorem State.consume_inp : (s.consume).inp = s.inp := rfl
@[simp] theorem State.consume_out : (s.consume).out = s.out := rfl
@[simp] theorem State.consume_rom : (s.consume).rom = s.rom := rfl
@[simp] theorem State.consume_bcReq : (s.consume).bcReq = { s.bcReq with valid := false } := rfl
@[simp] theorem State.consume_bcRsp : (s.consume).bcRsp = { s.bcRsp with valid := false } := rfl
@[simp] theorem State.consume_fresh : (s.consume).fresh = s.fresh := rfl
@[simp] theorem State.consume_turns : (s.consume).turns = s.turns := rfl
@[simp] theorem State.consume_script : (s.consume).script = s.script := rfl
@[simp] theorem State.consume_replies : (s.consume).replies = s.replies := rfl

@[simp] theorem State.putHeader_cmd (size : Word32) : (s.putHeader size).cmd = s.cmd := rfl
@[simp] theorem State.putHeader_busy (size : Word32) : (s.putHeader size).busy = s.busy := rfl
@[simp] theorem State.putHeader_done (size : Word32) : (s.putHeader size).done = s.done := rfl
@[simp] theorem State.putHeader_matched (size : Word32) : (s.putHeader size).matched = s.matched := rfl
@[simp] theorem State.putHeader_status (size : Word32) : (s.putHeader size).status = s.status := rfl
@[simp] theorem State.putHeader_inLen (size : Word32) : (s.putHeader size).inLen = s.inLen := rfl
@[simp] theorem State.putHeader_outLen (size : Word32) : (s.putHeader size).outLen = s.outLen := rfl
@[simp] theorem State.putHeader_errExpected (size : Word32) : (s.putHeader size).errExpected = s.errExpected := rfl
@[simp] theorem State.putHeader_errActual (size : Word32) : (s.putHeader size).errActual = s.errActual := rfl
@[simp] theorem State.putHeader_bcErrinfo (size : Word32) : (s.putHeader size).bcErrinfo = s.bcErrinfo := rfl
@[simp] theorem State.putHeader_phase (size : Word32) : (s.putHeader size).phase = .e4Empty := rfl
@[simp] theorem State.putHeader_cmdL (size : Word32) : (s.putHeader size).cmdL = s.cmdL := rfl
@[simp] theorem State.putHeader_n (size : Word32) : (s.putHeader size).n = s.n := rfl
@[simp] theorem State.putHeader_size (size : Word32) : (s.putHeader size).size = size := rfl
@[simp] theorem State.putHeader_cap (size : Word32) : (s.putHeader size).cap = s.cap := rfl
@[simp] theorem State.putHeader_inPos (size : Word32) : (s.putHeader size).inPos = s.inPos := rfl
@[simp] theorem State.putHeader_outPos (size : Word32) : (s.putHeader size).outPos = hdrLen := rfl
@[simp] theorem State.putHeader_inp (size : Word32) : (s.putHeader size).inp = s.inp := rfl
@[simp] theorem State.putHeader_out (size : Word32) : (s.putHeader size).out = (s.out.writeBytes 0 magic).writeBytes magicLen (le32Enc size) := rfl
@[simp] theorem State.putHeader_rom (size : Word32) : (s.putHeader size).rom = s.rom := rfl
@[simp] theorem State.putHeader_bcReq (size : Word32) : (s.putHeader size).bcReq = s.bcReq := rfl
@[simp] theorem State.putHeader_bcRsp (size : Word32) : (s.putHeader size).bcRsp = s.bcRsp := rfl
@[simp] theorem State.putHeader_fresh (size : Word32) : (s.putHeader size).fresh = s.fresh := rfl
@[simp] theorem State.putHeader_turns (size : Word32) : (s.putHeader size).turns = s.turns := rfl
@[simp] theorem State.putHeader_script (size : Word32) : (s.putHeader size).script = s.script := rfl
@[simp] theorem State.putHeader_replies (size : Word32) : (s.putHeader size).replies = s.replies := rfl

@[simp] theorem State.takeSize_cmd (size : Word32) : (s.takeSize size).cmd = s.cmd := rfl
@[simp] theorem State.takeSize_busy (size : Word32) : (s.takeSize size).busy = s.busy := rfl
@[simp] theorem State.takeSize_done (size : Word32) : (s.takeSize size).done = s.done := rfl
@[simp] theorem State.takeSize_matched (size : Word32) : (s.takeSize size).matched = s.matched := rfl
@[simp] theorem State.takeSize_status (size : Word32) : (s.takeSize size).status = s.status := rfl
@[simp] theorem State.takeSize_inLen (size : Word32) : (s.takeSize size).inLen = s.inLen := rfl
@[simp] theorem State.takeSize_outLen (size : Word32) : (s.takeSize size).outLen = s.outLen := rfl
@[simp] theorem State.takeSize_errExpected (size : Word32) : (s.takeSize size).errExpected = s.errExpected := rfl
@[simp] theorem State.takeSize_errActual (size : Word32) : (s.takeSize size).errActual = s.errActual := rfl
@[simp] theorem State.takeSize_bcErrinfo (size : Word32) : (s.takeSize size).bcErrinfo = s.bcErrinfo := rfl
@[simp] theorem State.takeSize_phase (size : Word32) : (s.takeSize size).phase = .d3Empty := rfl
@[simp] theorem State.takeSize_cmdL (size : Word32) : (s.takeSize size).cmdL = s.cmdL := rfl
@[simp] theorem State.takeSize_n (size : Word32) : (s.takeSize size).n = s.n := rfl
@[simp] theorem State.takeSize_size (size : Word32) : (s.takeSize size).size = size := rfl
@[simp] theorem State.takeSize_cap (size : Word32) : (s.takeSize size).cap = s.cap := rfl
@[simp] theorem State.takeSize_inPos (size : Word32) : (s.takeSize size).inPos = hdrLen := rfl
@[simp] theorem State.takeSize_outPos (size : Word32) : (s.takeSize size).outPos = s.outPos := rfl
@[simp] theorem State.takeSize_inp (size : Word32) : (s.takeSize size).inp = s.inp := rfl
@[simp] theorem State.takeSize_out (size : Word32) : (s.takeSize size).out = s.out := rfl
@[simp] theorem State.takeSize_rom (size : Word32) : (s.takeSize size).rom = s.rom := rfl
@[simp] theorem State.takeSize_bcReq (size : Word32) : (s.takeSize size).bcReq = s.bcReq := rfl
@[simp] theorem State.takeSize_bcRsp (size : Word32) : (s.takeSize size).bcRsp = s.bcRsp := rfl
@[simp] theorem State.takeSize_fresh (size : Word32) : (s.takeSize size).fresh = s.fresh := rfl
@[simp] theorem State.takeSize_turns (size : Word32) : (s.takeSize size).turns = s.turns := rfl
@[simp] theorem State.takeSize_script (size : Word32) : (s.takeSize size).script = s.script := rfl
@[simp] theorem State.takeSize_replies (size : Word32) : (s.takeSize size).replies = s.replies := rfl

@[simp] theorem State.reply_cmd (v : Nat) : (s.reply v).cmd = s.cmd := rfl
@[simp] theorem State.reply_busy (v : Nat) : (s.reply v).busy = s.busy := rfl
@[simp] theorem State.reply_done (v : Nat) : (s.reply v).done = s.done := rfl
@[simp] theorem State.reply_matched (v : Nat) : (s.reply v).matched = s.matched := rfl
@[simp] theorem State.reply_status (v : Nat) : (s.reply v).status = s.status := rfl
@[simp] theorem State.reply_inLen (v : Nat) : (s.reply v).inLen = s.inLen := rfl
@[simp] theorem State.reply_outLen (v : Nat) : (s.reply v).outLen = s.outLen := rfl
@[simp] theorem State.reply_errExpected (v : Nat) : (s.reply v).errExpected = s.errExpected := rfl
@[simp] theorem State.reply_errActual (v : Nat) : (s.reply v).errActual = s.errActual := rfl
@[simp] theorem State.reply_bcErrinfo (v : Nat) : (s.reply v).bcErrinfo = s.bcErrinfo := rfl
@[simp] theorem State.reply_phase (v : Nat) : (s.reply v).phase = s.phase := rfl
@[simp] theorem State.reply_cmdL (v : Nat) : (s.reply v).cmdL = s.cmdL := rfl
@[simp] theorem State.reply_n (v : Nat) : (s.reply v).n = s.n := rfl
@[simp] theorem State.reply_size (v : Nat) : (s.reply v).size = s.size := rfl
@[simp] theorem State.reply_cap (v : Nat) : (s.reply v).cap = s.cap := rfl
@[simp] theorem State.reply_inPos (v : Nat) : (s.reply v).inPos = s.inPos := rfl
@[simp] theorem State.reply_outPos (v : Nat) : (s.reply v).outPos = s.outPos := rfl
@[simp] theorem State.reply_inp (v : Nat) : (s.reply v).inp = s.inp := rfl
@[simp] theorem State.reply_out (v : Nat) : (s.reply v).out = s.out := rfl
@[simp] theorem State.reply_rom (v : Nat) : (s.reply v).rom = s.rom := rfl
@[simp] theorem State.reply_bcReq (v : Nat) : (s.reply v).bcReq = s.bcReq := rfl
@[simp] theorem State.reply_bcRsp (v : Nat) : (s.reply v).bcRsp = s.bcRsp := rfl
@[simp] theorem State.reply_fresh (v : Nat) : (s.reply v).fresh = s.fresh := rfl
@[simp] theorem State.reply_turns (v : Nat) : (s.reply v).turns = s.turns := rfl
@[simp] theorem State.reply_script (v : Nat) : (s.reply v).script = s.script := rfl
@[simp] theorem State.reply_replies (v : Nat) : (s.reply v).replies = v :: s.replies := rfl

@[simp] theorem State.takeTurn_cmd : (s.takeTurn).cmd = s.cmd := rfl
@[simp] theorem State.takeTurn_busy : (s.takeTurn).busy = s.busy := rfl
@[simp] theorem State.takeTurn_done : (s.takeTurn).done = s.done := rfl
@[simp] theorem State.takeTurn_matched : (s.takeTurn).matched = s.matched := rfl
@[simp] theorem State.takeTurn_status : (s.takeTurn).status = s.status := rfl
@[simp] theorem State.takeTurn_inLen : (s.takeTurn).inLen = s.inLen := rfl
@[simp] theorem State.takeTurn_outLen : (s.takeTurn).outLen = s.outLen := rfl
@[simp] theorem State.takeTurn_errExpected : (s.takeTurn).errExpected = s.errExpected := rfl
@[simp] theorem State.takeTurn_errActual : (s.takeTurn).errActual = s.errActual := rfl
@[simp] theorem State.takeTurn_bcErrinfo : (s.takeTurn).bcErrinfo = s.bcErrinfo := rfl
@[simp] theorem State.takeTurn_phase : (s.takeTurn).phase = s.phase := rfl
@[simp] theorem State.takeTurn_cmdL : (s.takeTurn).cmdL = s.cmdL := rfl
@[simp] theorem State.takeTurn_n : (s.takeTurn).n = s.n := rfl
@[simp] theorem State.takeTurn_size : (s.takeTurn).size = s.size := rfl
@[simp] theorem State.takeTurn_cap : (s.takeTurn).cap = s.cap := rfl
@[simp] theorem State.takeTurn_inPos : (s.takeTurn).inPos = s.inPos := rfl
@[simp] theorem State.takeTurn_outPos : (s.takeTurn).outPos = s.outPos := rfl
@[simp] theorem State.takeTurn_inp : (s.takeTurn).inp = s.inp := rfl
@[simp] theorem State.takeTurn_out : (s.takeTurn).out = s.out := rfl
@[simp] theorem State.takeTurn_rom : (s.takeTurn).rom = s.rom := rfl
@[simp] theorem State.takeTurn_bcReq : (s.takeTurn).bcReq = s.bcReq := rfl
@[simp] theorem State.takeTurn_bcRsp : (s.takeTurn).bcRsp = s.bcRsp := rfl
@[simp] theorem State.takeTurn_fresh : (s.takeTurn).fresh = s.fresh := rfl
@[simp] theorem State.takeTurn_turns : (s.takeTurn).turns = s.turns.tail := rfl
@[simp] theorem State.takeTurn_script : (s.takeTurn).script = s.script := rfl
@[simp] theorem State.takeTurn_replies : (s.takeTurn).replies = s.replies := rfl

@[simp] theorem State.willDo_cmd (ops : List HostOp) : (s.willDo ops).cmd = s.cmd := rfl
@[simp] theorem State.willDo_busy (ops : List HostOp) : (s.willDo ops).busy = s.busy := rfl
@[simp] theorem State.willDo_done (ops : List HostOp) : (s.willDo ops).done = s.done := rfl
@[simp] theorem State.willDo_matched (ops : List HostOp) : (s.willDo ops).matched = s.matched := rfl
@[simp] theorem State.willDo_status (ops : List HostOp) : (s.willDo ops).status = s.status := rfl
@[simp] theorem State.willDo_inLen (ops : List HostOp) : (s.willDo ops).inLen = s.inLen := rfl
@[simp] theorem State.willDo_outLen (ops : List HostOp) : (s.willDo ops).outLen = s.outLen := rfl
@[simp] theorem State.willDo_errExpected (ops : List HostOp) : (s.willDo ops).errExpected = s.errExpected := rfl
@[simp] theorem State.willDo_errActual (ops : List HostOp) : (s.willDo ops).errActual = s.errActual := rfl
@[simp] theorem State.willDo_bcErrinfo (ops : List HostOp) : (s.willDo ops).bcErrinfo = s.bcErrinfo := rfl
@[simp] theorem State.willDo_phase (ops : List HostOp) : (s.willDo ops).phase = s.phase := rfl
@[simp] theorem State.willDo_cmdL (ops : List HostOp) : (s.willDo ops).cmdL = s.cmdL := rfl
@[simp] theorem State.willDo_n (ops : List HostOp) : (s.willDo ops).n = s.n := rfl
@[simp] theorem State.willDo_size (ops : List HostOp) : (s.willDo ops).size = s.size := rfl
@[simp] theorem State.willDo_cap (ops : List HostOp) : (s.willDo ops).cap = s.cap := rfl
@[simp] theorem State.willDo_inPos (ops : List HostOp) : (s.willDo ops).inPos = s.inPos := rfl
@[simp] theorem State.willDo_outPos (ops : List HostOp) : (s.willDo ops).outPos = s.outPos := rfl
@[simp] theorem State.willDo_inp (ops : List HostOp) : (s.willDo ops).inp = s.inp := rfl
@[simp] theorem State.willDo_out (ops : List HostOp) : (s.willDo ops).out = s.out := rfl
@[simp] theorem State.willDo_rom (ops : List HostOp) : (s.willDo ops).rom = s.rom := rfl
@[simp] theorem State.willDo_bcReq (ops : List HostOp) : (s.willDo ops).bcReq = s.bcReq := rfl
@[simp] theorem State.willDo_bcRsp (ops : List HostOp) : (s.willDo ops).bcRsp = s.bcRsp := rfl
@[simp] theorem State.willDo_fresh (ops : List HostOp) : (s.willDo ops).fresh = s.fresh := rfl
@[simp] theorem State.willDo_turns (ops : List HostOp) : (s.willDo ops).turns = s.turns := rfl
@[simp] theorem State.willDo_script (ops : List HostOp) : (s.willDo ops).script = ops ++ s.script := rfl
@[simp] theorem State.willDo_replies (ops : List HostOp) : (s.willDo ops).replies = s.replies := rfl

@[simp] theorem State.resetMove_cmd : (s.resetMove).cmd = State.reset.cmd := rfl
@[simp] theorem State.resetMove_busy : (s.resetMove).busy = State.reset.busy := rfl
@[simp] theorem State.resetMove_done : (s.resetMove).done = State.reset.done := rfl
@[simp] theorem State.resetMove_matched : (s.resetMove).matched = State.reset.matched := rfl
@[simp] theorem State.resetMove_status : (s.resetMove).status = State.reset.status := rfl
@[simp] theorem State.resetMove_inLen : (s.resetMove).inLen = State.reset.inLen := rfl
@[simp] theorem State.resetMove_outLen : (s.resetMove).outLen = State.reset.outLen := rfl
@[simp] theorem State.resetMove_errExpected : (s.resetMove).errExpected = State.reset.errExpected := rfl
@[simp] theorem State.resetMove_errActual : (s.resetMove).errActual = State.reset.errActual := rfl
@[simp] theorem State.resetMove_bcErrinfo : (s.resetMove).bcErrinfo = State.reset.bcErrinfo := rfl
@[simp] theorem State.resetMove_phase : (s.resetMove).phase = State.reset.phase := rfl
@[simp] theorem State.resetMove_cmdL : (s.resetMove).cmdL = State.reset.cmdL := rfl
@[simp] theorem State.resetMove_n : (s.resetMove).n = State.reset.n := rfl
@[simp] theorem State.resetMove_size : (s.resetMove).size = State.reset.size := rfl
@[simp] theorem State.resetMove_cap : (s.resetMove).cap = State.reset.cap := rfl
@[simp] theorem State.resetMove_inPos : (s.resetMove).inPos = State.reset.inPos := rfl
@[simp] theorem State.resetMove_outPos : (s.resetMove).outPos = State.reset.outPos := rfl
@[simp] theorem State.resetMove_inp : (s.resetMove).inp = State.reset.inp := rfl
@[simp] theorem State.resetMove_out : (s.resetMove).out = State.reset.out := rfl
@[simp] theorem State.resetMove_rom : (s.resetMove).rom = State.reset.rom := rfl
@[simp] theorem State.resetMove_bcReq : (s.resetMove).bcReq = State.reset.bcReq := rfl
@[simp] theorem State.resetMove_bcRsp : (s.resetMove).bcRsp = State.reset.bcRsp := rfl
@[simp] theorem State.resetMove_fresh : (s.resetMove).fresh = s.fresh := rfl
@[simp] theorem State.resetMove_turns : (s.resetMove).turns = s.turns := rfl
@[simp] theorem State.resetMove_script : (s.resetMove).script = s.script := rfl
@[simp] theorem State.resetMove_replies : (s.resetMove).replies = s.replies := rfl

@[simp] theorem State.answer_cmd (c : Config) (a : Answer) : (s.answer c a).cmd = s.cmd := by cases a <;> rfl
@[simp] theorem State.answer_busy (c : Config) (a : Answer) : (s.answer c a).busy = s.busy := by cases a <;> rfl
@[simp] theorem State.answer_done (c : Config) (a : Answer) : (s.answer c a).done = s.done := by cases a <;> rfl
@[simp] theorem State.answer_matched (c : Config) (a : Answer) : (s.answer c a).matched = s.matched := by cases a <;> rfl
@[simp] theorem State.answer_status (c : Config) (a : Answer) : (s.answer c a).status = s.status := by cases a <;> rfl
@[simp] theorem State.answer_inLen (c : Config) (a : Answer) : (s.answer c a).inLen = s.inLen := by cases a <;> rfl
@[simp] theorem State.answer_outLen (c : Config) (a : Answer) : (s.answer c a).outLen = s.outLen := by cases a <;> rfl
@[simp] theorem State.answer_errExpected (c : Config) (a : Answer) : (s.answer c a).errExpected = s.errExpected := by cases a <;> rfl
@[simp] theorem State.answer_errActual (c : Config) (a : Answer) : (s.answer c a).errActual = s.errActual := by cases a <;> rfl
@[simp] theorem State.answer_bcErrinfo (c : Config) (a : Answer) : (s.answer c a).bcErrinfo = s.bcErrinfo := by cases a <;> rfl
@[simp] theorem State.answer_phase (c : Config) (a : Answer) : (s.answer c a).phase = s.phase := by cases a <;> rfl
@[simp] theorem State.answer_cmdL (c : Config) (a : Answer) : (s.answer c a).cmdL = s.cmdL := by cases a <;> rfl
@[simp] theorem State.answer_n (c : Config) (a : Answer) : (s.answer c a).n = s.n := by cases a <;> rfl
@[simp] theorem State.answer_size (c : Config) (a : Answer) : (s.answer c a).size = s.size := by cases a <;> rfl
@[simp] theorem State.answer_cap (c : Config) (a : Answer) : (s.answer c a).cap = s.cap := by cases a <;> rfl
@[simp] theorem State.answer_inPos (c : Config) (a : Answer) : (s.answer c a).inPos = s.inPos := by cases a <;> rfl
@[simp] theorem State.answer_outPos (c : Config) (a : Answer) : (s.answer c a).outPos = s.outPos := by cases a <;> rfl
@[simp] theorem State.answer_inp (c : Config) (a : Answer) : (s.answer c a).inp = s.inp := by cases a <;> rfl
@[simp] theorem State.answer_rom (c : Config) (a : Answer) : (s.answer c a).rom = s.rom := by cases a <;> rfl
@[simp] theorem State.answer_bcReq (c : Config) (a : Answer) : (s.answer c a).bcReq = s.bcReq := by cases a <;> rfl
@[simp] theorem State.answer_turns (c : Config) (a : Answer) : (s.answer c a).turns = s.turns := by cases a <;> rfl
@[simp] theorem State.answer_script (c : Config) (a : Answer) : (s.answer c a).script = s.script := by cases a <;> rfl
@[simp] theorem State.answer_replies (c : Config) (a : Answer) : (s.answer c a).replies = s.replies := by cases a <;> rfl
@[simp] theorem State.answer_fresh (c : Config) (a : Answer) : (s.answer c a).fresh = s.fresh + 1 := by cases a <;> rfl

/-- What a successful call leaves in OUT. -/
@[simp] theorem State.answer_ok_out (c : Config) (w : Bytes) :
    (s.answer c (.ok w)).out = (s.out.forget s.bcReq.dstOff s.bcReq.dstCap).writeBytes s.bcReq.dstOff w := rfl

/-- What a failed call leaves in OUT. -/
@[simp] theorem State.answer_fail_out (c : Config) (e : Nat) :
    (s.answer c (.fail e)).out = s.out.forget s.bcReq.dstOff s.bcReq.dstCap := rfl

@[simp] theorem State.answer_ok_bcRsp (c : Config) (w : Bytes) :
    (s.answer c (.ok w)).bcRsp = ⟨true, false, w.length, Config.freeErrinfo s.fresh % 2 ^ c.bcew⟩ := rfl

@[simp] theorem State.answer_fail_bcRsp (c : Config) (e : Nat) :
    (s.answer c (.fail e)).bcRsp = ⟨true, true, Config.freeLen s.fresh % 2 ^ c.lenw, e⟩ := rfl

@[simp] theorem State.answer_bcRsp_valid (c : Config) (a : Answer) : (s.answer c a).bcRsp.valid = true := by
  cases a <;> rfl

end Sys2Proof.Machine
end

