-- ==== Sys2Proof/Laws/Ops.lean ====
section
/-! SUPPORT. What each shared operation does, said once: the header, the engine's answer, and the failure completion,
and what law BC-BOUND gives. -/

namespace Sys2Proof.Machine

/-- Two adjacent ranges read as one. -/
theorem Memory.readBytes_append {m : Memory} {a : Nat} {x y : Bytes} (hx : m.readBytes a x.length = some x)
    (hy : m.readBytes (a + x.length) y.length = some y) : m.readBytes a (x.length + y.length) = some (x ++ y) := by
  rw [Memory.readBytes_eq_some_iff] at *
  refine ⟨by simp, fun k hk => ?_⟩
  by_cases h : k < x.length
  · rw [hx.2 k h, List.getElem?_append_left h]
  · have := hy.2 (k - x.length) (by omega)
    rw [List.getElem?_append_right (by omega), ← this]
    congr 1
    omega

/-- A read of part of a range gives that part. -/
theorem Memory.readBytes_sub {m : Memory} {a n : Nat} {x : Bytes} (h : m.readBytes a n = some x) (lo len : Nat)
    (hi : lo + len ≤ n) : m.readBytes (a + lo) len = some ((x.drop lo).take len) := by
  rw [Memory.readBytes_eq_some_iff] at *
  refine ⟨by simp; omega, fun k hk => ?_⟩
  rw [show a + lo + k = a + (lo + k) by omega, h.2 _ (by omega), List.getElem?_take_of_lt hk, List.getElem?_drop]

@[simp] theorem le32Enc_length (v : Word32) : (le32Enc v).length = 4 := rfl

/-- What a written header reads as, in its two parts and whole, and that no other byte changes. -/
theorem State.putHeader_reads (size : Word32) (s : State) :
    (s.putHeader size).out.readBytes 0 8 = some magic ∧ (s.putHeader size).out.readBytes 8 4 = some (le32Enc size) ∧
      (s.putHeader size).out.readBytes 0 12 = some (magic ++ le32Enc size) ∧
      ∀ a, 12 ≤ a → (s.putHeader size).out.read a = s.out.read a := by
  have hout : (s.putHeader size).out = (s.out.writeBytes 0 magic).writeBytes 8 (le32Enc size) := rfl
  have h8 : (s.putHeader size).out.readBytes 0 magic.length = some magic := by
    rw [hout, ← Memory.readBytes_writeBytes s.out 0 magic]
    refine Memory.readBytes_congr fun i _ hi => Memory.read_writeBytes_outside _ _ (.inl ?_)
    simpa using hi
  have h4 : (s.putHeader size).out.readBytes 8 (le32Enc size).length = some (le32Enc size) := by
    rw [hout]
    exact Memory.readBytes_writeBytes _ _ _
  refine ⟨h8, h4, Memory.readBytes_append h8 h4, fun a ha => ?_⟩
  rw [hout, Memory.read_writeBytes_outside _ _ (.inr (by simpa using ha)),
    Memory.read_writeBytes_outside _ _ (.inr (by simp; omega))]

/-- The engine changes no byte of OUT outside the destination window, since the collaborator keeps BC-FIT. -/
theorem State.answer_outside (s : State) (c : Config) (a : Answer)
    (fits : ∀ w, a = .ok w → w.length ≤ s.bcReq.dstCap) (i : Nat)
    (h : i < s.bcReq.dstOff ∨ s.bcReq.dstOff + s.bcReq.dstCap ≤ i) : (s.answer c a).out.read i = s.out.read i := by
  cases a with
  | ok w =>
    have := fits w rfl
    rw [State.answer_ok_out, Memory.read_writeBytes_outside _ _ (by omega), Memory.read_forget_outside _ h]
  | fail e => rw [State.answer_fail_out, Memory.read_forget_outside _ h]

/-- What the engine returns stands at the head of the destination window. -/
theorem State.answer_ok_reads (s : State) (c : Config) (w : Bytes) :
    (s.answer c (.ok w)).out.readBytes s.bcReq.dstOff w.length = some w := by
  rw [State.answer_ok_out, Memory.readBytes_writeBytes]

/-- No error kind has the status code of success. -/
@[simp] theorem ErrorKind.status_ne_ok (k : ErrorKind) : k.status ≠ .ok := by
  cases k <;> simp [ErrorKind.status]

/-- Under BC-BOUND (R150) a success with some capacity at or above the bound gives a success at the bound. -/
theorem compress_ok_at_bound {c : Config} (law : c.BoundSuffices) {src p : Bytes} {cap : Nat}
    (room : c.compressBound src.length ≤ cap) (ok : c.compressBlock src cap = .ok p) :
    ∃ q, c.compressBlock src (c.compressBound src.length) = .ok q := by
  cases h : c.compressBlock src (c.compressBound src.length) with
  | ok q => exact ⟨q, rfl⟩
  | fail e =>
    obtain ⟨e', h'⟩ := law src _ cap e le_rfl room h
    rw [ok] at h'
    cases h'

end Sys2Proof.Machine
end

