-- ==== Sys2Proof/Laws/PerInstr.lean ====
section
/-! SUPPORT. One lemma per instruction: its encoded word is a word of its row of spec/opcode_table.json. -/

namespace Sys2Proof.Laws

/-- The words of the three formats as the opcode table numbers them: a header is one big-endian number (R60). -/
def tableNumber : Encoded → Nat
  | .cmd word => word.toNat
  | .portOp op => op.toNat
  | .container bytes => bytes.foldl (fun n b => n * 256 + b.toNat) 0

/-- Mask and match of the instruction's row. -/
def tableRow : Instr → Nat × Nat
  | .nop => (0x3, 0x0)
  | .encode => (0x3, 0x1)
  | .decode => (0x3, 0x2)
  | .sniff => (0x3, 0x3)
  | .compress => (0x1, 0x0)
  | .decompress => (0x1, 0x1)
  | .containerHdr _ => (0xffffffffffffffff00000000, 0x6d6f7a4c7a34300000000000)

/-- A word of a row agrees with the row's match on the bits of its mask. -/
def TableRow.Statement (i : Instr) : Prop :=
  i.wf = true → tableNumber (encode i) &&& (tableRow i).1 = (tableRow i).2

theorem TableRow.nop : TableRow.Statement .nop := by
  intro _
  decide

theorem TableRow.encode : TableRow.Statement .encode := by
  intro _
  decide

theorem TableRow.decode : TableRow.Statement .decode := by
  intro _
  decide

theorem TableRow.sniff : TableRow.Statement .sniff := by
  intro _
  decide

theorem TableRow.compress : TableRow.Statement .compress := by
  intro _
  decide

theorem TableRow.decompress : TableRow.Statement .decompress := by
  intro _
  decide

/-- The low 32 bits of a header word are free: they hold the size field. -/
theorem and_high_mask (a x k : Nat) (hx : x < 2 ^ 32) (ha : (a <<< 32) &&& (k <<< 32) = a <<< 32) :
    (a * 2 ^ 32 + x) &&& (k <<< 32) = a * 2 ^ 32 := by
  have hsum : a * 2 ^ 32 + x = a <<< 32 ||| x := by
    rw [← Nat.shiftLeft_add_eq_or_of_lt hx, Nat.shiftLeft_eq]
  have hlow : x &&& (k <<< 32) = 0 := by
    apply Nat.eq_of_testBit_eq
    intro i
    rw [Nat.testBit_and, Nat.testBit_shiftLeft, Nat.zero_testBit]
    by_cases h : 32 ≤ i
    · rw [Nat.testBit_lt_two_pow (lt_of_lt_of_le hx (Nat.pow_le_pow_right (by omega) h))]
      rfl
    · simp [h]
  rw [hsum, Nat.and_or_distrib_right, hlow, ha, Nat.or_zero, Nat.shiftLeft_eq]

theorem TableRow.containerHdr (size : Word32) : TableRow.Statement (.containerHdr size) := by
  intro _
  have hnum : tableNumber (Sys2Proof.encode (.containerHdr size)) =
      0x6d6f7a4c7a343000 * 2 ^ 32 +
        (((size.extractLsb' 0 8).toNat * 256 + (size.extractLsb' 8 8).toNat) * 65536 +
          (size.extractLsb' 16 8).toNat * 256 + (size.extractLsb' 24 8).toNat) := by
    have hmagic : magic.foldl (fun n (b : Byte) => n * 256 + b.toNat) 0 = 0x6d6f7a4c7a343000 := by decide
    simp only [tableNumber, Sys2Proof.encode, List.foldl_append, hmagic, le32Enc, List.foldl_cons, List.foldl_nil]
    generalize (size.extractLsb' 0 8).toNat = b0
    generalize (size.extractLsb' 8 8).toNat = b1
    generalize (size.extractLsb' 16 8).toNat = b2
    generalize (size.extractLsb' 24 8).toNat = b3
    omega
  have h0 := (size.extractLsb' 0 8).isLt
  have h1 := (size.extractLsb' 8 8).isLt
  have h2 := (size.extractLsb' 16 8).isLt
  have h3 := (size.extractLsb' 24 8).isLt
  rw [hnum]
  exact and_high_mask _ _ 0xffffffffffffffff (by omega) (by decide)

end Sys2Proof.Laws
end

