-- ==== Sys2Proof/Laws/Step.lean ====
section
/-! SUPPORT. What one step can do, said once: the moves of the framer, of the engine and of the host. -/

namespace Sys2Proof.Machine

variable {c : Config} {s t : State}

/-- The header an input begins with has the size field the framer reads. -/
theorem headerAt_eq_some {m : Memory} {n : Nat} {i : Instr} (h : headerAt m n = some i) :
    ∃ size, i = .containerHdr size ∧ sizeAt m = some size ∧ hdrLen ≤ n := by
  unfold headerAt at h
  split at h
  · cases h
  · rename_i hn
    cases hb : m.readBytes 0 hdrLen with
    | none => simp [hb] at h
    | some b =>
      simp only [hb, decode, decodeHeader] at h
      obtain ⟨hl, hr⟩ := (Memory.readBytes_eq_some_iff _ _ _ _).1 hb
      have h4 : m.readBytes magicLen sizeLen = some (b.drop magicLen) := by
        rw [Memory.readBytes_eq_some_iff]
        simp only [hdrLen, magicLen, sizeLen] at *
        refine ⟨by simp [hl], fun k hk => ?_⟩
        have := hr (8 + k) (by omega)
        simpa [List.getElem?_drop] using this
      split at h
      · rename_i j hj
        split at hj
        · cases hj
        · split at hj
          · cases hj
          · cases hs : sizeField (b.drop magicLen) with
            | none => rw [hs] at hj; cases hj
            | some size =>
              rw [hs] at hj
              cases hj
              cases h
              refine ⟨size, rfl, ?_, by omega⟩
              simp [sizeAt, h4, hs]
      · cases h

/-- The sequencer's step is the step of the command its phase belongs to, whichever instruction it reads there. -/
theorem framer_runs_its_command (hb : s.busy = true) {i : Instr} (hi : s.phase.command = some i) :
    execWith c (framerInstr s) s.takeTurn = execWith c i s.takeTurn := by
  cases hp : s.phase <;> rw [hp] at hi <;> simp only [Phase.command, reduceCtorEq, Option.some.injEq] at hi <;> subst hi <;>
    simp only [framerInstr, hp]
  by_cases hz : sizeIsPresent s = true
  · rw [if_pos hz]
    cases hh : headerAt s.inp s.n with
    | none => rfl
    | some j =>
      obtain ⟨size, rfl, hs, hn⟩ := headerAt_eq_some hh
      have hz' : sizeIsPresent s.takeTurn = true := hz
      have hn' : insideInput s.n magicLen sizeLen = true := (insideInput_size_iff _).2 hn
      simp [execWith, containerHdrStep, decodeStep, hb, hp, d2Size, hz', hn', hs]
  · rw [if_neg hz]

/-- What the sequencer's step can do, phase by phase. `s` is the state whose turn has been taken. -/
inductive FramerMove (c : Config) (s t : State) : Prop where
  | e1 (p : s.phase = .e1Size) (eq : t = e1Size s)
  | e2 (p : s.phase = .e2Alloc) (eq : t = e2Alloc c s)
  | e3 (p : s.phase = .e3Hdr) (eq : t = e3Hdr s)
  | e4 (p : s.phase = .e4Empty) (eq : t = e4Empty s)
  | e5c (p : s.phase = .e5Comp) (eq : t = e5Comp s)
  | e5w (p : s.phase = .e5Wait) (r : s.bcRsp.valid = true) (eq : t = e5Wait s)
  | d1Bad (p : s.phase = .d1Magic) (m : magicMatch s.inp s.n = some false) (eq : t = s.raise .invalidFormat)
  | d1Good (p : s.phase = .d1Magic) (m : magicMatch s.inp s.n = some true)
      (eq : t = { s with inPos := magicLen, phase := .d2Size })
  | d2Short (p : s.phase = .d2Size) (m : sizeIsPresent s = false) (eq : t = s.raise .invalidFormat)
  | d2Present (p : s.phase = .d2Size) (m : sizeIsPresent s = true) (below : hdrLen ≤ s.n) (size : Word32) (r : sizeAt s.inp = some size)
      (eq : t = s.takeSize size)
  | d3 (p : s.phase = .d3Empty) (eq : t = d3Empty s)
  | d4c (p : s.phase = .d4Decomp) (eq : t = d4Decomp s)
  | d4w (p : s.phase = .d4Wait) (r : s.bcRsp.valid = true) (eq : t = d4Wait s)
  | s1 (p : s.phase = .s1Magic) (b : Bool) (m : magicMatch s.inp s.n = some b)
      (eq : t = ({ s with matched := b } : State).complete 0)

/-- The sequencer's step does one of the moves above. -/
theorem framer_moves (hr : framerReady s = true) (h : execWith c (framerInstr s) s.takeTurn = .next t) :
    FramerMove c s.takeTurn t := by
  simp only [framerReady, Bool.and_eq_true, Bool.or_eq_true, Bool.not_eq_true'] at hr
  obtain ⟨⟨hb, hcmd⟩, hw⟩ := hr
  obtain ⟨i, hi⟩ := Option.isSome_iff_exists.1 hcmd
  rw [framer_runs_its_command hb hi] at h
  cases hp : s.phase <;> rw [hp] at hi <;> simp only [Phase.command, reduceCtorEq, Option.some.injEq] at hi <;> subst hi <;>
    simp only [execWith, encodeStep, decodeStep, sniffStep, State.takeTurn_busy, State.takeTurn_phase, hb, hp, if_true,
      Host.Outcome.next.injEq] at h
  · exact .e1 hp h.symm
  · exact .e2 hp h.symm
  · exact .e3 hp h.symm
  · exact .e4 hp h.symm
  · exact .e5c hp h.symm
  · exact .e5w hp (by simpa [hp, Phase.waits] using hw) h.symm
  · unfold d1Magic magicOk at h
    split at h
    · cases h
    · cases h; rename_i hm; exact .d1Bad hp hm rfl
    · cases h; rename_i hm; exact .d1Good hp hm rfl
  · unfold d2Size at h
    split at h
    · rename_i hz
      split at h
      · rename_i hn
        split at h
        · cases h
        · cases h; rename_i hs
          exact .d2Present hp hz ((insideInput_size_iff _).1 hn) _ hs rfl
      · cases h
    · cases h; rename_i hz; exact .d2Short hp (by simpa using hz) rfl
  · exact .d3 hp h.symm
  · exact .d4c hp h.symm
  · exact .d4w hp (by simpa [hp, Phase.waits] using hw) h.symm
  · unfold s1Magic magicOk at h
    split at h
    · cases h
    · cases h; rename_i hm; exact .s1 hp _ hm rfl

/-- The collaborator's function an engine step calls (R152). -/
def engineFunction (c : Config) (s : State) : Bytes → Nat → Answer :=
  if s.bcReq.op = 0 then c.compressBlock else c.decompressBlock

/-- The engine's step reads its source, which lies below N, and writes what the collaborator answers. -/
theorem engine_moves (hr : engineReady s = true) (h : execWith c (engineInstr s) s.takeTurn = .next t) :
    insideInput s.n s.bcReq.srcOff s.bcReq.srcLen = true ∧
      ∃ src, sourceBytes s = some src ∧ t = s.takeTurn.answer c (engineFunction c s src s.bcReq.dstCap) := by
  have hr' : engineReady s.takeTurn = true := hr
  have key : ∀ f : Bytes → Nat → Answer, engineStep c f s.takeTurn = .next t →
      insideInput s.n s.bcReq.srcOff s.bcReq.srcLen = true ∧
        ∃ src, sourceBytes s = some src ∧ t = s.takeTurn.answer c (f src s.bcReq.dstCap) := by
    intro f hf
    simp only [engineStep, hr', if_true] at hf
    split at hf
    · rename_i hin
      split at hf
      · cases hf
      · rename_i src hsrc
        cases hf
        exact ⟨hin, src, hsrc, rfl⟩
    · cases hf
  unfold engineInstr decodePortOp at h
  by_cases hop : s.bcReq.op = 0#1
  · rw [if_pos hop] at h
    simpa [engineFunction, hop] using key _ h
  · rw [if_neg hop] at h
    simpa [engineFunction, hop] using key _ h

/-- What an access of the host can do. `s` is the state with the turn and the access taken. -/
inductive HostMove (c : Config) (s t : State) : Prop where
  /-- Nothing of the framer changes. -/
  | quiet (script : List HostOp) (replies : List Nat) (eq : t = { s with script := script, replies := replies })
  | cmd (code : BitVec 2) (eq : t = { s with cmd := code.setWidth 32 })
  | inLen (v : Nat) (fits : v < 2 ^ c.lenw) (eq : t = { s with inLen := v })
  | inByte (idle : s.busy = false) (i : Nat) (b : Byte) (inside : i < 2 ^ c.lenw) (script : List HostOp)
      (eq : t = { s with inp := s.inp.write i b, script := script })
  | start (idle : s.busy = false) (eq : execWith c (decodeCommand s.cmd) s = .next t)
  | reset (eq : t = s.resetMove)

theorem readByte_next {space : Space} {i : Nat} {k : Byte → State} (h : readByte c space i s k = .next t) :
    ∃ b, t = k b := by
  unfold readByte at h
  repeat' split at h
  all_goals cases h
  all_goals exact ⟨_, rfl⟩

theorem writeByte_next {space : Space} {i : Nat} {b : Byte} (h : writeByte c space i b s = .next t) :
    s.busy = false ∧ i < 2 ^ c.lenw ∧ t = { s with inp := s.inp.write i b } := by
  unfold writeByte at h
  repeat' split at h
  all_goals cases h
  rename_i hb hi
  exact ⟨by simpa using hb, hi, rfl⟩

/-- Every access of the host is one of the moves above. -/
theorem host_moves {op : HostOp} (h : hostAccess c (execWith c) op s = .next t) : HostMove c s t := by
  cases op with
  | wr reg value =>
    simp only [hostAccess] at h
    split at h
    · unfold writeCtrl at h
      split at h
      · rename_i hs
        simp only [Bool.and_eq_true, Bool.not_eq_true'] at hs
        exact .start hs.2 h
      · cases h
        exact .quiet s.script s.replies rfl
    · unfold writeReg at h
      split at h
      · cases h; exact .cmd _ rfl
      · split at h
        · cases h; exact .inLen _ ‹_› rfl
        · cases h
      · cases h; exact .quiet s.script s.replies rfl
  | rd reg => cases h; exact .quiet _ _ rfl
  | wb space i b =>
    obtain ⟨hb, hi, rfl⟩ := writeByte_next h
    exact .inByte hb i b hi s.script rfl
  | rb space i =>
    obtain ⟨b, rfl⟩ := readByte_next h
    exact .quiet _ _ rfl
  | resetPin => cases h; exact .reset rfl
  | wait => cases h; exact .quiet _ _ rfl
  | ifMatch skip => cases h; exact .quiet _ _ rfl
  | ifOk skip => cases h; exact .quiet _ _ rfl
  | copyback => cases h; exact .quiet _ _ rfl
  | copyRead i len =>
    simp only [hostAccess] at h
    obtain ⟨b, rfl⟩ := readByte_next h
    exact .quiet _ _ rfl
  | copyWrite i len b =>
    simp only [hostAccess] at h
    obtain ⟨hb, hi, rfl⟩ := writeByte_next h
    exact .inByte hb i b hi _ rfl

/-- What START can do (R166, R168): launch one of the four commands. -/
inductive StartMove (s t : State) : Prop where
  | nop (code : s.cmd.extractLsb' 0 2 = 0) (eq : t = (s.launch 0 .done).complete 0)
  | encode (code : s.cmd.extractLsb' 0 2 = 1) (eq : t = s.launch 1 .e1Size)
  | decode (code : s.cmd.extractLsb' 0 2 = 2) (eq : t = s.launch 2 .d1Magic)
  | sniff (code : s.cmd.extractLsb' 0 2 = 3) (eq : t = s.launch 3 .s1Magic)

theorem start_moves (hb : s.busy = false) (h : execWith c (decodeCommand s.cmd) s = .next t) : StartMove s t := by
  simp only [decodeCommand] at h
  split at h
  · rename_i hc
    simp only [execWith, nopStep, hb, Bool.false_eq_true, if_false, Host.Outcome.next.injEq] at h
    exact .nop hc h.symm
  · split at h
    · rename_i hc
      simp only [execWith, encodeStep, hb, Bool.false_eq_true, if_false, Host.Outcome.next.injEq] at h
      exact .encode hc h.symm
    · split at h
      · rename_i hc
        simp only [execWith, decodeStep, hb, Bool.false_eq_true, if_false, Host.Outcome.next.injEq] at h
        exact .decode hc h.symm
      · rename_i h0 h1 h2
        simp only [execWith, sniffStep, hb, Bool.false_eq_true, if_false, Host.Outcome.next.injEq] at h
        refine .sniff ?_ h.symm
        revert h0 h1 h2
        generalize s.cmd.extractLsb' 0 2 = code
        revert code
        decide

/-- One step of the whole: a move of one agent, or an idle framer that stays as it is. -/
inductive StepMove (c : Config) (s t : State) : Prop where
  | framer (who : pick s = some .framer) (ready : framerReady s = true) (move : FramerMove c s.takeTurn t)
  | engine (who : pick s = some .engine) (ready : engineReady s = true)
      (inside : insideInput s.n s.bcReq.srcOff s.bcReq.srcLen = true) (src : Bytes) (read : sourceBytes s = some src)
      (eq : t = s.takeTurn.answer c (engineFunction c s src s.bcReq.dstCap))
  | host (who : pick s = some .host) (op : HostOp) (rest : List HostOp) (next : s.script = op :: rest)
      (move : HostMove c { s.takeTurn with script := rest } t)
  | idle (who : pick s = none) (idle : s.busy = false) (eq : t = s.takeTurn)

theorem defaultAgent_ready {a : Agent} (h : defaultAgent s = some a) : ready s a = true := by
  unfold defaultAgent at h
  repeat' split at h
  all_goals cases h
  all_goals assumption

/-- An agent that moves has a step to take. -/
theorem pick_ready {a : Agent} (h : pick s = some a) : ready s a = true := by
  unfold pick at h
  split at h
  · exact defaultAgent_ready h
  · split at h
    · cases h; assumption
    · exact defaultAgent_ready h

/-- Every step is one of the moves above. -/
theorem step_moves (h : stepWith c s = .next t) : StepMove c s t := by
  unfold stepWith stepBy at h
  split at h
  · rename_i hw
    exact .framer hw (pick_ready hw) (framer_moves (pick_ready hw) h)
  · rename_i hw
    obtain ⟨hin, src, hsrc, eq⟩ := engine_moves (pick_ready hw) h
    exact .engine hw (pick_ready hw) hin src hsrc eq
  · rename_i hw
    cases hs : s.script with
    | nil =>
      have := pick_ready hw
      simp [ready, hs] at this
    | cons op rest =>
      simp only [hostTurn, State.takeTurn_script, hs] at h
      exact .host hw op rest hs (host_moves h)
  · rename_i hw
    split at h
    · cases h
    · cases h
      exact .idle hw (by simpa using ‹¬s.busy = true›) rfl

end Sys2Proof.Machine
end

