-- ==== Sys2Proof/Tests/Slice0.lean ====
section
/-! SUPPORT. Small tests with results from the spec (95_test_vectors.md, named T-… and V… there), the smoke test of WellFormed, and one
witness for the hypotheses of every statement that has any. -/

namespace Sys2Proof.Tests

open Sys2Proof.Machine

/-! ## WellFormed: a term each check refuses, beside one it accepts -/

theorem smoke_inLen_value_fits :
    HostOp.wf copyCodec (.wr 3 (2 ^ 64)) = false ∧ HostOp.wf copyCodec (.wr 3 (2 ^ 64 - 1)) = true := by decide

theorem smoke_write_index_inside :
    HostOp.wf copyCodec (.wb .inp (2 ^ 64) 0) = false ∧ HostOp.wf copyCodec (.wb .inp (2 ^ 64 - 1) 0) = true := by decide

theorem smoke_no_write_to_out : HostOp.wf copyCodec (.wb .out 0 0) = false := by decide

theorem smoke_no_write_to_rom : HostOp.wf copyCodec (.wb .magicRom 0 0) = false := by decide

theorem smoke_rom_index_inside :
    HostOp.wf copyCodec (.rb .magicRom 8) = false ∧ HostOp.wf copyCodec (.rb .magicRom 7) = true := by decide

theorem smoke_read_index_inside :
    HostOp.wf copyCodec (.rb .inp (2 ^ 64)) = false ∧ HostOp.wf copyCodec (.rb .out (2 ^ 64)) = false ∧
      HostOp.wf copyCodec (.rb .inp (2 ^ 64 - 1)) = true := by decide

theorem smoke_copy_index_inside :
    HostOp.wf copyCodec (.copyRead 3 3) = false ∧ HostOp.wf copyCodec (.copyWrite 3 3 0) = false ∧
      HostOp.wf copyCodec (.copyRead 2 3) = true := by decide

theorem smoke_copy_length_fits :
    HostOp.wf copyCodec (.copyRead 0 (2 ^ 64)) = false ∧ HostOp.wf copyCodec (.copyWrite 0 (2 ^ 64) 0) = false := by decide

theorem smoke_script : scriptWf copyCodec [.wr 0 1, .wb .out 0 0] = false ∧ scriptWf copyCodec [.wr 0 1, .wait] = true := by decide

/-! ## Decoding: words written out from R60, R70, R74 -/

theorem test_decode_nop : decode (.cmd 0b00000000000000000000000000000000#32) = .ok .nop := by rfl
theorem test_decode_encode : decode (.cmd 0b00000000000000000000000000000001#32) = .ok .encode := by rfl
theorem test_decode_decode : decode (.cmd 0b00000000000000000000000000000010#32) = .ok .decode := by rfl
theorem test_decode_sniff : decode (.cmd 0b00000000000000000000000000000011#32) = .ok .sniff := by rfl
theorem test_decode_compress : decode (.portOp 0b0#1) = .ok .compress := by rfl
theorem test_decode_decompress : decode (.portOp 0b1#1) = .ok .decompress := by rfl

/-- R60's bit pattern with `a = 78`, `b = 56`, `c = 34`, `d = 12` (T-P15). -/
theorem test_decode_containerHdr :
    decode (.container [0b01101101#8, 0b01101111#8, 0b01111010#8, 0b01001100#8, 0b01111010#8, 0b00110100#8, 0b00110000#8,
      0b00000000#8, 0b01111000#8, 0b01010110#8, 0b00110100#8, 0b00010010#8]) = .ok (.containerHdr 0x12345678) := by rfl

/-- T-D3, T-D6, T-D8. -/
theorem test_decode_rejects :
    decode (.container [0x6d, 0x6f, 0x7a, 0x4c, 0x7a, 0x34, 0x30]) = .error .headerTooShort ∧
      decode (.container [0x6d, 0x6f, 0x7a, 0x4c, 0x7a, 0x34, 0x30, 0x01, 0, 0, 0, 0]) = .error .badMagic ∧
      decode (.container [0x6d, 0x6f, 0x7a, 0x4c, 0x7a, 0x34, 0x30, 0x00, 1, 2, 3]) = .error .truncatedSize := ⟨rfl, rfl, rfl⟩

theorem test_table_words :
    decodeTableWord 2 0 = some .nop ∧ decodeTableWord 8 1 = some .encode ∧ decodeTableWord 8 2 = some .decode ∧
      decodeTableWord 32 3 = some .sniff ∧ decodeTableWord 1 0 = some .compress ∧ decodeTableWord 1 1 = some .decompress := by
  decide

/-- A header word in the row's own numbering (byte 0 highest) and in the other one (byte 0 lowest). -/
theorem test_table_header :
    decodeTableWord 96 0x6d6f7a4c7a3430000f000000 = some (.containerHdr 15) ∧
      decodeTableWord 96 0x0000000f0030347a4c7a6f6d = some (.containerHdr 15) ∧
      decodeTableWord 96 0x6e6f7a4c7a3430000f000000 = none := by decide

/-- T-P11. -/
theorem test_le32_enc :
    le32Enc 258 = [0x02, 0x01, 0, 0] ∧ le32Enc 0x12345678 = [0x78, 0x56, 0x34, 0x12] ∧
      le32Enc 0xFFFFFFFF = [0xff, 0xff, 0xff, 0xff] := by decide

/-- T-P14, T-P15. -/
theorem test_le32_dec :
    le32Dec 0 0 0 1 = 16777216 ∧ le32Dec 0 0 0 0xff = 4278190080 ∧ le32Dec 0x78 0x56 0x34 0x12 = 305419896 := by decide

/-! ## Primitives -/

/-- A byte space that holds a sequence from index 0. -/
def holding (b : Bytes) : Memory := Memory.writeBytes [] 0 b

/-- T-P2, T-P4, T-P5. -/
theorem test_magic_match :
    magicMatch (holding (magic.take 7)) 7 = some false ∧ magicMatch (holding (magic ++ [0xff])) 9 = some true ∧
      magicMatch (holding [0x6d, 0x6f, 0x7a, 0x4c, 0x7a, 0x34, 0x30, 0x01]) 8 = some false := by decide

/-- T-P8, T-P9, T-P13. -/
theorem test_size_tests :
    sizeFits 4294967295 = true ∧ sizeFits 4294967296 = false ∧ sizePresent 11 8 = false ∧ sizePresent 12 8 = true := by
  decide

/-- T-B1, T-B7, T-B11. -/
theorem test_default_bound :
    defaultBound 0 = 16 ∧ defaultBound 255 = 272 ∧ defaultBound 4294967295 = 4311810320 := by decide

/-- T-B18, T-B21. -/
theorem test_lit_compress :
    litCompress [0x00] 17 = .ok [0x10, 0x00] ∧
      litCompress [0x41, 0x42, 0x43, 0x44, 0x45, 0x46, 0x47, 0x48, 0x49, 0x4a, 0x4b, 0x4c, 0x4d, 0x4e, 0x4f, 0x50, 0x51, 0x52,
        0x53, 0x54] 36 =
        .ok [0xf0, 0x05, 0x41, 0x42, 0x43, 0x44, 0x45, 0x46, 0x47, 0x48, 0x49, 0x4a, 0x4b, 0x4c, 0x4d, 0x4e, 0x4f, 0x50, 0x51,
          0x52, 0x53, 0x54] := by decide

/-- T-B25 to T-B30. -/
theorem test_lit_decompress :
    litDecompress [0x20, 0x7b, 0x7d] 3 = .ok [0x7b, 0x7d] ∧ litDecompress [0x20, 0x7b, 0x7d] 1 = .fail 3 ∧
      litDecompress [] 5 = .fail 2 ∧ litDecompress [0x21, 0x7b, 0x7d] 2 = .fail 2 ∧
      litDecompress [0x20, 0x7b, 0x7d, 0x00] 2 = .fail 2 ∧ litDecompress [0xf0] 15 = .fail 2 := by decide

/-! ## One step of each instruction -/

/-- A framer that runs a command in the given phase on the given input, its registers as START left them. -/
def running (p : Phase) (code : BitVec 2) (d : Bytes) : State :=
  { State.reset with busy := true, phase := p, cmdL := code, n := d.length, inLen := d.length, inp := holding d }

/-- The Container of V5: it declares size 3 and its payload decodes to 2 bytes. -/
def v5 : Bytes := magic ++ [0x03, 0, 0, 0, 0x20, 0x7b, 0x7d]

/-- A framer in E5_WAIT with the request of V2 posted, and the response given. -/
def compressing (rsp : BcRsp) : State :=
  { running .e5Wait 1 [0x7b, 0x7d] with bcReq := ⟨true, 0, 0, 2, 12, 18⟩, cap := 30, bcRsp := rsp }

/-- A framer in D4_WAIT with the request of V5 posted, and the response given. -/
def decompressing (rsp : BcRsp) : State :=
  { running .d4Wait 2 v5 with bcReq := ⟨true, 1, 12, 3, 0, 3⟩, size := 3, cap := 3, inPos := 12, bcRsp := rsp }

/-- No response yet. -/
def noRsp : BcRsp := ⟨false, false, 0, 0⟩

/-- T-N1. -/
theorem test_nop_after_reset : (next? (execWith copyCodec .nop State.reset)).map statWord = some 0x02 := by decide

/-- T-N2: START clears what a failed DECODE recorded. -/
theorem test_nop_clears :
    (next? (execWith copyCodec .nop
      { State.reset with
        done := true
        phase := .done
        status := .sizeMismatch
        errExpected := 3
        errActual := 2 })).map (fun t => (statWord t, t.errExpected, t.errActual)) = some (0x02, 0, 0) := by decide

/-- T-E13, T-X4. -/
theorem test_encode_size_overflow :
    (next? (execWith copyCodec .encode { running .e1Size 1 [] with n := 4294967296 })).map
      (fun t => (statWord t, t.outLen)) = some (0x32, 0) := by decide

/-- V2 at E3_HDR. -/
theorem test_encode_header :
    (next? (execWith litCodec .encode (running .e3Hdr 1 [0x7b, 0x7d]))).map (fun t => (t.out.readBytes 0 12, t.outPos)) =
      some (some [0x6d, 0x6f, 0x7a, 0x4c, 0x7a, 0x34, 0x30, 0x00, 0x02, 0x00, 0x00, 0x00], 12) := by decide

/-- T-D8: Magic and 3 bytes. -/
theorem test_decode_truncated :
    (next? (execWith copyCodec .decode { running .d2Size 2 (magic ++ [1, 2, 3]) with inPos := 8 })).map statWord =
      some 0x12 := by decide

/-- V5 at D4_WAIT. -/
theorem test_decode_mismatch :
    (next? (execWith litCodec .decode (decompressing ⟨true, false, 2, 77⟩))).map
      (fun t => (statWord t, t.errExpected, t.errActual, t.bcErrinfo, t.outLen)) = some (0x22, 3, 2, 0, 0) := by decide

/-- T-S of a Container: MATCH and OK together. -/
theorem test_sniff_match : (next? (execWith copyCodec .sniff (running .s1Magic 3 v5))).map statWord = some 0x06 := by decide

/-- 43_sniff.md R141: seven bytes of Magic are too few. -/
theorem test_sniff_short :
    (next? (execWith copyCodec .sniff (running .s1Magic 3 (magic.take 7)))).map statWord = some 0x02 := by decide

/-- V2 at the engine. -/
theorem test_compress :
    (next? (execWith litCodec .compress (compressing noRsp))).map
      (fun t => (t.out.readBytes 12 3, t.bcRsp.valid, t.bcRsp.fail, t.bcRsp.len)) =
      some (some [0x20, 0x7b, 0x7d], true, false, 3) := by decide

/-- T-E4 at the engine: the failure value passes unchanged. -/
theorem test_compress_fails :
    (next? (execWith failCodec .compress (compressing noRsp))).map (fun t => (t.bcRsp.fail, t.bcRsp.errinfo)) =
      some (true, 0x0BAD) := by decide

/-- V5 at the engine. -/
theorem test_decompress :
    (next? (execWith litCodec .decompress (decompressing noRsp))).map
      (fun t => (t.out.readBytes 0 2, t.bcRsp.fail, t.bcRsp.len)) = some (some [0x7b, 0x7d], false, 2) := by decide

/-- T-D18 at the engine: two literals into a target of 1. -/
theorem test_decompress_fails :
    (next? (execWith litCodec .decompress
      { decompressing noRsp with bcReq := ⟨true, 1, 12, 3, 0, 1⟩ })).map (fun t => (t.bcRsp.fail, t.bcRsp.errinfo)) =
      some (true, 3) := by decide

/-- T-D22's size field at D2_SIZE. -/
theorem test_header_size :
    (next? (execWith copyCodec (.containerHdr 16777216)
      { running .d2Size 2 (magic ++ [0, 0, 0, 1, 0xaa]) with inPos := 8 })).map (fun t => (t.size, t.inPos, t.phase)) =
      some (16777216, 12, .d3Empty) := by decide

/-- The header of an empty Container as E3_HDR writes it (V1). -/
theorem test_header_written :
    (next? (execWith copyCodec (.containerHdr 0) (running .e3Hdr 1 []))).map (fun t => t.out.readBytes 0 12) =
      some (some [0x6d, 0x6f, 0x7a, 0x4c, 0x7a, 0x34, 0x30, 0x00, 0, 0, 0, 0]) := by decide

/-! ## A placed word is run by the next step, the first after reset -/

theorem test_step_runs_encode :
    (next? (step (State.reset.withFetchWord 8 1))).map (fun t => (t.busy, t.phase, t.cmdL)) = some (true, .e1Size, 1) := by
  decide

theorem test_step_runs_header :
    (next? (step (State.reset.withFetchWord 96 0x6d6f7a4c7a3430000f000000))).map (fun t => (t.size, t.phase)) =
      some (15, .d3Empty) := by decide

/-- The engine's turn comes with a placed port operation, an empty source being read. -/
theorem test_step_runs_compress :
    (next? (stepWith failCodec (State.reset.withFetchWord 1 0))).map (fun t => (t.bcRsp.valid, t.bcRsp.errinfo)) =
      some (true, 0x0BAD) := by decide

/-! ## The commands as functions -/

/-- V2, V5 and T-D11 under LIT, T-E4 under FAIL. -/
theorem test_functions :
    encodeFn litCodec [0x7b, 0x7d] = .ok (magic ++ [0x02, 0, 0, 0, 0x20, 0x7b, 0x7d]) ∧
      decodeFn litCodec v5 = .err (.sizeMismatch 3 2) ∧
      decodeFn litCodec (magic ++ [0, 0, 0, 0, 0xff, 0xee, 0xdd, 0xcc]) = .ok [] ∧
      encodeFn failCodec [0x7b, 0x7d] = .err (.compressionFailed 0x0BAD) := by decide

/-! ## Host scripts -/

/-- The encoding of program P2's first half, and of ROUNDTRIP (R77). -/
theorem test_expand :
    expandScript [.sniff, .ifMatch .decode] =
        [.wr 0 3, .wr 1 1, .wait, .ifMatch 3, .wr 0 2, .wr 1 1, .wait] ∧
      expandScript [.load [0x7b, 0x7d], .roundtrip] =
        [.wb .inp 0 0x7b, .wb .inp 1 0x7d, .wr 3 2, .wr 0 1, .wr 1 1, .wait, .copyback, .wr 0 2, .wr 1 1, .wait] := by decide

/-- T-C5, T-C6, T-R1: writes and reads by register number. -/
theorem test_registers :
    (next? (writeReg copyCodec 0 0xFFFFFFFE State.reset)).map (readReg · 0) = some 2 ∧
      (next? (writeReg copyCodec 4 99 State.reset)).map (readReg · 4) = some 0 ∧ readReg State.reset 9 = 0 := by decide

/-- T-R3: OUT cannot be read after reset. -/
theorem test_out_hidden :
    (match stepWith copyCodec { State.reset with script := [.rb .out 0] } with
      | .refused .hostReadHiddenOut => true
      | _ => false) = true := by decide

/-- COPYBACK of one byte goes on with the byte read, then with IN_LEN. -/
theorem test_copyback :
    (next? (stepWith copyCodec
      { State.reset with
        done := true
        phase := .done
        outLen := 1
        out := [(0, 0x41)]
        script := [.copyback] })).map (·.script) = some [.copyRead 0 1] ∧
      (next? (stepWith copyCodec { State.reset with script := [.copyWrite 0 1 0x41] })).map (fun t => (t.script, t.inp)) =
        some ([.wr 3 1], [(0, 0x41)]) := by decide

/-! ## Witnesses: for each statement with hypotheses, values that meet all of them, clause by clause, at the boundaries -/

theorem witness_DecodeOfEncodeIsTheInstruction : (Instr.containerHdr 0xFFFFFFFF).wf = true := by decide

theorem witness_AWordDecodesOnlyFromItsEncoding :
    decode (.cmd 0xFFFFFFFD#32) = .ok .encode ∧ decode (.portOp 1) = .ok .decompress ∧
      decode (.container (magic ++ [1, 0, 0, 0, 0xaa])) = .ok (.containerHdr 1) := ⟨rfl, rfl, rfl⟩

theorem witness_IllegalHeadersAreRejectedByName :
    (magic.take 7).length < 8 ∧ (8 ≤ (0x6e :: magic.tail).length ∧ (0x6e :: magic.tail).take 8 ≠ magic) ∧
      ([1, 2, 3] : Bytes).length ≤ 3 ∧ 4 ≤ ([1, 2, 3, 4] : Bytes).length := by decide

/-- The host about to write START with the given command in CMD. -/
def starting (cmd : Word32) : State := { State.reset with cmd := cmd, script := [.wr 1 1, .wait] }

theorem witness_AStepRunsTheDecodedInstruction_host :
    pick (starting 3) = some .host ∧ (starting 3).script = .wr 1 1 :: [.wait] ∧ Nat.testBit 1 0 = true ∧
      (starting 3).busy = false ∧ decode (.cmd (starting 3).cmd) = .ok .sniff := ⟨by decide, rfl, by decide, rfl, rfl⟩

theorem witness_AStepRunsTheDecodedInstruction_engine :
    pick (compressing noRsp) = some .engine ∧ decode (.portOp (compressing noRsp).bcReq.op) = .ok .compress :=
  ⟨by decide, rfl⟩

/-- At D2_SIZE as well, with fewer than 4 bytes after the Magic. -/
theorem witness_AStepRunsTheDecodedInstruction_framer :
    (pick (running .e3Hdr 1 [1]) = some .framer ∧ (running .e3Hdr 1 [1]).phase.command = some .encode) ∧
      pick { running .d2Size 2 (magic ++ [1, 2, 3]) with inPos := 8 } = some .framer ∧
      (running .d2Size 2 (magic ++ [1, 2, 3])).phase.command = some .decode := by decide

/-- A DECODE at D2_SIZE on an input of exactly the header. -/
def atSize : State := { running .d2Size 2 (magic ++ [0x0f, 0, 0, 0]) with inPos := 8 }

theorem witness_AStepRunsTheDecodedInstruction_header :
    pick atSize = some .framer ∧ atSize.phase = .d2Size ∧ atSize.inPos = magicLen ∧ hdrLen ≤ atSize.n ∧
      atSize.inp.readBytes 0 hdrLen = some (magic ++ [0x0f, 0, 0, 0]) ∧
      decode (.container (magic ++ [0x0f, 0, 0, 0])) = .ok (.containerHdr 15) :=
  ⟨by decide, rfl, rfl, by decide, by decide, rfl⟩

theorem witness_APlacedTableWordRunsNext : decodeTableWord 8 3 = some .sniff := by decide

theorem witness_StartLaunchesTheCommand_ignored :
    pick { running .e5Wait 1 [1] with script := [.wr 1 3] } = some .host ∧ Nat.testBit 3 0 = true ∧
      (running .e5Wait 1 [1]).busy = true := by decide

theorem witness_StartLaunchesTheCommand_codes :
    (∀ cmd : Word32, pick (starting cmd) = some .host ∧ (starting cmd).busy = false) ∧
      (starting 0).cmd.extractLsb' 0 2 = 0b00#2 ∧ (starting 1).cmd.extractLsb' 0 2 = 0b01#2 ∧
      (starting 2).cmd.extractLsb' 0 2 = 0b10#2 ∧ (starting 3).cmd.extractLsb' 0 2 = 0b11#2 :=
  ⟨fun _ => ⟨rfl, rfl⟩, rfl, rfl, rfl, rfl⟩

theorem witness_NopCompletesAtOnce : State.reset.busy = false := by decide

theorem witness_E1SizeChecksTheLength :
    (running .e1Size 1 []).busy = true ∧ (running .e1Size 1 []).phase = .e1Size ∧
      ({ running .e1Size 1 [] with n := 4294967295 } : State).n ≤ 4294967295 ∧
      4294967295 < ({ running .e1Size 1 [] with n := 4294967296 } : State).n :=
  ⟨rfl, rfl, Nat.le_refl _, Nat.lt_succ_self _⟩

theorem witness_E2AllocSizesTheWindow :
    (running .e2Alloc 1 []).busy = true ∧ (running .e2Alloc 1 []).phase = .e2Alloc := by decide

theorem witness_E3HdrWritesTheHeader :
    (running .e3Hdr 1 []).busy = true ∧ (running .e3Hdr 1 []).phase = .e3Hdr := by decide

theorem witness_E4EmptyEndsAnEmptyInput :
    (running .e4Empty 1 []).busy = true ∧ (running .e4Empty 1 []).phase = .e4Empty ∧ (running .e4Empty 1 []).n = 0 ∧
      (running .e4Empty 1 [0]).n ≠ 0 := by decide

theorem witness_E5CompPostsTheWholeInput :
    (running .e5Comp 1 [0]).busy = true ∧ (running .e5Comp 1 [0]).phase = .e5Comp := by decide

theorem witness_E5WaitTakesTheAnswer :
    (compressing noRsp).busy = true ∧ (compressing noRsp).phase = .e5Wait ∧ (compressing noRsp).bcRsp.valid = false ∧
      (compressing ⟨true, false, 3, 7⟩).bcRsp.fail = false ∧ (compressing ⟨true, true, 9, 0x0BAD⟩).bcRsp.fail = true := by
  decide

theorem witness_D1MagicStripsTheMagic :
    (running .d1Magic 2 []).busy = true ∧ (running .d1Magic 2 []).phase = .d1Magic ∧
      (running .d1Magic 2 (magic.take 7)).n < 8 ∧ 8 ≤ (running .d1Magic 2 magic).n ∧
      (running .d1Magic 2 magic).inp.readBytes 0 8 = some magic ∧
      (running .d1Magic 2 (0x6e :: magic.tail)).inp.readBytes 0 8 = some (0x6e :: magic.tail) ∧
      (0x6e :: magic.tail : Bytes) ≠ magic := by decide

theorem witness_D2SizeTakesTheSize :
    atSize.busy = true ∧ atSize.phase = .d2Size ∧ 4 ≤ atSize.n - atSize.inPos ∧ 12 ≤ atSize.n ∧
      atSize.inp.readBytes 8 4 = some [0x0f, 0, 0, 0] ∧ ({ atSize with n := 11 } : State).n - atSize.inPos < 4 := by decide

theorem witness_D3EmptyEndsAZeroSize :
    (running .d3Empty 2 []).busy = true ∧ (running .d3Empty 2 []).phase = .d3Empty ∧ (running .d3Empty 2 []).size = 0 ∧
      ({ running .d3Empty 2 [] with size := 1 } : State).size ≠ 0 := by decide

theorem witness_D4DecompPostsThePayload :
    (running .d4Decomp 2 v5).busy = true ∧ (running .d4Decomp 2 v5).phase = .d4Decomp := by decide

theorem witness_D4WaitTakesTheAnswer :
    (decompressing noRsp).busy = true ∧ (decompressing noRsp).phase = .d4Wait ∧ (decompressing noRsp).bcRsp.valid = false ∧
      (decompressing ⟨true, true, 3, 5⟩).bcRsp.fail = true ∧
      ((decompressing ⟨true, false, 2, 5⟩).bcRsp.fail = false ∧
        (decompressing ⟨true, false, 2, 5⟩).bcRsp.len ≠ (decompressing ⟨true, false, 2, 5⟩).size.toNat) ∧
      (decompressing ⟨true, false, 3, 5⟩).bcRsp.len = (decompressing ⟨true, false, 3, 5⟩).size.toNat := by decide

theorem witness_S1MagicReportsTheMagic :
    (running .s1Magic 3 magic).busy = true ∧ (running .s1Magic 3 magic).phase = .s1Magic ∧
      8 ≤ (running .s1Magic 3 magic).n ∧ (running .s1Magic 3 magic).inp.readBytes 0 8 = some magic ∧
      (running .s1Magic 3 (magic.take 7)).n < 8 := by decide

theorem witness_TheEngineAnswersARequest :
    ((Instr.compress = .compress ∧ Config.hw.compressBlock = Config.hw.compressBlock) ∧
        (compressing noRsp).bcReq.valid = true ∧ (compressing noRsp).bcRsp.valid = false ∧ 0 + 2 ≤ (compressing noRsp).n ∧
        (compressing noRsp).inp.readBytes 0 2 = some [0x7b, 0x7d]) ∧
      (Instr.decompress = .decompress ∧ Config.hw.decompressBlock = Config.hw.decompressBlock) ∧
        (decompressing noRsp).bcReq.valid = true ∧ (decompressing noRsp).bcRsp.valid = false ∧
        12 + 3 ≤ (decompressing noRsp).n ∧ (decompressing noRsp).inp.readBytes 12 3 = some [0x20, 0x7b, 0x7d] :=
  ⟨⟨⟨rfl, rfl⟩, by decide⟩, ⟨rfl, rfl⟩, by decide⟩

theorem witness_TheEngineStepsOnlyOnReadableRequests :
    ¬(State.reset.bcReq.valid = true ∧ State.reset.bcRsp.valid = false) ∧
      ({ compressing noRsp with inp := holding [0x7b] } : State).bcReq.valid = true ∧
      ({ compressing noRsp with inp := holding [0x7b] } : State).bcRsp.valid = false ∧
      0 + 2 ≤ ({ compressing noRsp with inp := holding [0x7b] } : State).n ∧
      ({ compressing noRsp with inp := holding [0x7b] } : State).inp.readBytes 0 2 = none ∧
      ({ compressing noRsp with n := 1 } : State).bcReq.srcLen ≠ 0 ∧ ({ compressing noRsp with n := 1 } : State).n < 0 + 2 := by
  decide

theorem witness_AHeaderIsWrittenAndRead :
    ((running .e3Hdr 1 []).busy = true ∧ (running .e3Hdr 1 []).phase = .e3Hdr) ∧
      ((running .d1Magic 2 v5).busy = true ∧ (running .d1Magic 2 v5).phase = .d1Magic) ∧
      (atSize.busy = true ∧ atSize.phase = .d2Size) ∧
      ((running .s1Magic 3 v5).busy = true ∧ (running .s1Magic 3 v5).phase = .s1Magic) ∧ State.reset.busy = false ∧
      ((running .e4Empty 1 []).phase ≠ .e3Hdr ∧ (running .e4Empty 1 []).phase ≠ .d1Magic ∧
        (running .e4Empty 1 []).phase ≠ .d2Size ∧ (running .e4Empty 1 []).phase ≠ .s1Magic) := by decide

theorem witness_AHeaderStepIsTheCommandsStep :
    (running .e3Hdr 1 [1]).busy = true ∧ (running .e3Hdr 1 [1]).phase = .e3Hdr ∧
      hdrLen ≤ (running .d1Magic 2 v5).n ∧
      (running .d1Magic 2 v5).inp.readBytes 0 hdrLen = some (magic ++ [0x03, 0, 0, 0]) ∧
      (running .s1Magic 3 v5).inp.readBytes 0 hdrLen = some (magic ++ [0x03, 0, 0, 0]) ∧
      hdrLen ≤ atSize.n ∧ atSize.inp.readBytes 0 hdrLen = some (magic ++ [0x0f, 0, 0, 0]) ∧ atSize.inPos = magicLen := by
  decide

theorem witness_AHeaderStepIsTheCommandsStep_decodes :
    decode (.container (magic ++ [0x03, 0, 0, 0])) = .ok (.containerHdr 3) := by rfl

theorem witness_FrameOfEveryInstruction :
    ∀ i ∈ ([.nop, .encode, .decode, .sniff] : List Instr), ∃ t, exec i State.reset = .next t := by
  intro i hi
  simp only [List.mem_cons, List.not_mem_nil, or_false] at hi
  rcases hi with rfl | rfl | rfl | rfl <;> exact ⟨_, rfl⟩

theorem witness_FrameOfEveryInstruction_engine :
    (∃ t, execWith litCodec .compress (compressing noRsp) = .next t) ∧
      (∃ t, execWith litCodec .decompress (decompressing noRsp) = .next t) ∧
      ∃ t, exec (.containerHdr 15) atSize = .next t := ⟨⟨_, rfl⟩, ⟨_, rfl⟩, ⟨_, rfl⟩⟩

theorem witness_CommandsOffTheirPhase :
    State.reset.busy = false ∧ (running .d1Magic 2 []).busy = true ∧
      (running .d1Magic 2 []).phase.command ≠ some .encode ∧
      (8 ≤ ({ running .d1Magic 2 magic with inp := [] } : State).n ∧
        ({ running .d1Magic 2 magic with inp := [] } : State).inp.readBytes 0 8 = none) ∧
      (4 ≤ ({ atSize with inp := holding magic } : State).n - atSize.inPos ∧ 12 ≤ atSize.n ∧
        ({ atSize with inp := holding magic } : State).inp.readBytes 8 4 = none) ∧
      (4 ≤ ({ atSize with inPos := 7, n := 11 } : State).n - ({ atSize with inPos := 7, n := 11 } : State).inPos ∧
        ({ atSize with inPos := 7, n := 11 } : State).n < 12) ∧
      (8 ≤ ({ running .s1Magic 3 magic with inp := [] } : State).n ∧
        ({ running .s1Magic 3 magic with inp := [] } : State).inp.readBytes 0 8 = none) := by decide

/-- A command that fails: V4 at D2_SIZE. -/
def truncated : State := { running .d2Size 2 magic with inPos := 8 }

theorem witness_AFailedCommandExposesNothing :
    truncated.busy = true ∧ truncated.done = false ∧
      ∃ t, stepWith copyCodec truncated = .next t ∧ t.done = true ∧ t.status ≠ .ok :=
  ⟨rfl, rfl, _, rfl, by decide, by decide⟩

/-- The concrete states these tests use meet the invariant. -/
theorem framerInv_running : FramerInv truncated ∧ FramerInv (running .e1Size 1 []) ∧ FramerInv (running .s1Magic 3 []) ∧
    FramerInv (compressing noRsp) := by
  refine ⟨?_, ?_, ?_, ?_⟩ <;> constructor <;> first | decide | exact fun _ => ⟨rfl, rfl, rfl, rfl, rfl, rfl⟩

theorem framerInv_too_long : FramerInv { running .e1Size 1 [] with n := 4294967296 } := by
  constructor <;> first | decide | exact fun _ => ⟨rfl, rfl, rfl, rfl, rfl, rfl⟩

theorem witness_EachCommandFailsOnlyItsOwnWay :
    FramerInv truncated ∧ FramerInv (running .s1Magic 3 []) ∧ FramerInv { running .e1Size 1 [] with n := 4294967296 } ∧
    (∃ t, stepWith copyCodec { running .e1Size 1 [] with n := 4294967296 } = .next t ∧ t.done = true ∧
      t.status = .sizeOverflow) ∧
      (∃ t, stepWith copyCodec truncated = .next t ∧ t.done = true ∧ truncated.phase.command = some .decode) ∧
      ∃ t, stepWith copyCodec (running .s1Magic 3 []) = .next t ∧ t.done = true ∧
        (running .s1Magic 3 []).phase.command = some .sniff :=
  ⟨framerInv_running.1, framerInv_running.2.2.1, framerInv_too_long, ⟨_, rfl, by decide⟩, ⟨_, rfl, by decide⟩,
    ⟨_, rfl, by decide⟩⟩

theorem witness_ResetIsAMoveFromAnyState :
    pick { compressing noRsp with script := [.resetPin], turns := [.host] } = some .host := by decide

theorem witness_EveryStepKeepsTheInvariant :
    FramerInv truncated ∧ ∃ t, stepWith copyCodec truncated = .next t := ⟨framerInv_running.1, _, rfl⟩

theorem witness_ReachableStatesMeetTheSpecsInvariants :
    ∃ s, Host.Core.run core 1 { State.reset with turns := [], script := [.wr 1 1] } = .next s := ⟨_, rfl⟩

/-- The lengths of the state V2 waits in fit. -/
theorem fits_compressing : Fits litCodec (compressing noRsp) ∧ Fits litCodec truncated := by
  refine ⟨?_, ?_⟩ <;> constructor <;> first | decide | exact fun _ => by decide

theorem witness_NoLengthEverWraps :
    FramerInv (compressing noRsp) ∧ Fits litCodec (compressing noRsp) ∧
      ∃ t, stepWith litCodec (compressing noRsp) = .next t := ⟨framerInv_running.2.2.2, fits_compressing.1, _, rfl⟩

theorem witness_ABusyFramerIsNeverStuck :
    FramerInv (compressing noRsp) ∧ (compressing noRsp).busy = true ∧ Fits litCodec (compressing noRsp) :=
  ⟨framerInv_running.2.2.2, rfl, fits_compressing.1⟩

/-- A framer at rest after a command. -/
def finished : State := { State.reset with done := true, phase := .done }

/-- A framer at rest, and one about to be started, meet the invariants. -/
theorem invariants_idle :
    (FramerInv finished ∧ Fits litCodec finished) ∧ FramerInv (starting 0) ∧ Fits litCodec (starting 0) := by
  refine ⟨⟨?_, ?_⟩, ?_, ?_⟩ <;> constructor <;>
    first
      | decide
      | exact fun _ => by decide
      | exact fun _ => ⟨rfl, rfl, rfl, rfl, rfl, rfl⟩

theorem witness_PhaseMovesOnlyAlongTheTable :
    (FramerInv truncated ∧ Fits litCodec truncated ∧ pick truncated = some .framer ∧
        ∃ t, stepWith litCodec truncated = .next t) ∧
      (FramerInv (compressing noRsp) ∧ Fits litCodec (compressing noRsp) ∧ pick (compressing noRsp) = some .engine ∧
        ∃ t, stepWith litCodec (compressing noRsp) = .next t) ∧
      (FramerInv (starting 0) ∧ Fits litCodec (starting 0) ∧ pick (starting 0) = some .host ∧
        ∃ t, stepWith litCodec (starting 0) = .next t) ∧
      (FramerInv finished ∧ Fits litCodec finished ∧ pick finished = none ∧ ∃ t, stepWith litCodec finished = .next t) :=
  ⟨⟨framerInv_running.1, fits_compressing.2, by decide, _, rfl⟩,
    ⟨framerInv_running.2.2.2, fits_compressing.1, by decide, _, rfl⟩,
    ⟨invariants_idle.2.1, invariants_idle.2.2, by decide, _, rfl⟩,
    ⟨invariants_idle.1.1, invariants_idle.1.2, by decide, _, rfl⟩⟩

/-- The same framer, the host about to poll it. -/
def polled : State := { compressing noRsp with script := [.rd 2], turns := [.host] }

theorem framerInv_polled : FramerInv polled := by
  constructor <;> first | decide | exact fun _ => ⟨rfl, rfl, rfl, rfl, rfl, rfl⟩

theorem witness_EveryStepBringsTheEndNearer :
    (FramerInv (compressing noRsp) ∧ pick (compressing noRsp) = some .engine ∧
        ∃ t, stepWith litCodec (compressing noRsp) = .next t) ∧
      FramerInv polled ∧ pick polled = some .host ∧ polled.busy = true ∧
        ∃ t, stepWith litCodec polled = .next t ∧ t.busy = true :=
  ⟨⟨framerInv_running.2.2.2, by decide, _, rfl⟩, framerInv_polled, by decide, rfl, _, rfl, by decide⟩

/-- An idle framer with an input, ready for START. -/
def loaded (d : Bytes) : State := { State.reset with inp := holding d, inLen := d.length }

/-- What `execWith` launches on it. -/
def launched (code : BitVec 2) (first : Phase) (d : Bytes) : State := (loaded d).launch code first

/-- An ENCODE of the empty input ends after its four steps (T-E1). -/
theorem ends_encode : ∃ t, EndsAfter failCodec 4 (launched 1 .e1Size []) t ∧ t.status = .ok ∧ t.outLen = 12 := by
  refine ⟨_, ⟨rfl, rfl, ?_⟩, rfl, rfl⟩
  intro j hj
  match j, hj with
  | 0, _ => exact ⟨_, rfl, rfl⟩
  | 1, _ => exact ⟨_, rfl, rfl⟩
  | 2, _ => exact ⟨_, rfl, rfl⟩
  | 3, _ => exact ⟨_, rfl, rfl⟩

theorem witness_ARunOfEncodeComputesEncode :
    (loaded []).busy = false ∧ execWith failCodec .encode (loaded []) = .next (launched 1 .e1Size []) ∧
      (∃ t, EndsAfter failCodec 4 (launched 1 .e1Size []) t) ∧ (loaded []).inLen = ([] : Bytes).length ∧
      (loaded []).inp.readBytes 0 ([] : Bytes).length = some [] :=
  ⟨rfl, rfl, ⟨_, ends_encode.choose_spec.1⟩, rfl, rfl⟩

theorem witness_ARunOfEncodeComputesEncode_overflow :
    sizeMax < ({ State.reset with inLen := 4294967296 } : State).inLen ∧
      ∃ u t, execWith copyCodec .encode { State.reset with inLen := 4294967296 } = .next u ∧ EndsAfter copyCodec 1 u t := by
  refine ⟨by decide, _, _, rfl, rfl, rfl, ?_⟩
  intro j hj
  match j, hj with
  | 0, _ => exact ⟨_, rfl, rfl⟩

/-- A DECODE of one byte ends after its first step (T-D2). -/
theorem witness_ARunOfDecodeComputesDecode :
    (loaded [0x6d]).busy = false ∧ execWith copyCodec .decode (loaded [0x6d]) = .next (launched 2 .d1Magic [0x6d]) ∧
      (∃ t, EndsAfter copyCodec 1 (launched 2 .d1Magic [0x6d]) t) ∧ (loaded [0x6d]).inLen = ([0x6d] : Bytes).length ∧
      (loaded [0x6d]).inp.readBytes 0 ([0x6d] : Bytes).length = some [0x6d] := by
  refine ⟨rfl, rfl, ⟨_, rfl, rfl, ?_⟩, rfl, rfl⟩
  intro j hj
  match j, hj with
  | 0, _ => exact ⟨_, rfl, rfl⟩

theorem witness_ARunOfSniffComputesSniff :
    (loaded magic).busy = false ∧ execWith copyCodec .sniff (loaded magic) = .next (launched 3 .s1Magic magic) ∧
      (∃ t, EndsAfter copyCodec 1 (launched 3 .s1Magic magic) t) ∧ (loaded magic).inLen = magic.length ∧
      (loaded magic).inp.readBytes 0 magic.length = some magic := by
  refine ⟨rfl, rfl, ⟨_, rfl, rfl, ?_⟩, rfl, rfl⟩
  intro j hj
  match j, hj with
  | 0, _ => exact ⟨_, rfl, rfl⟩

theorem witness_EveryCommandEnds :
    (loaded magic).busy = false ∧ (loaded magic).turns = [] ∧ (loaded magic).script = [] ∧
      ∃ b : Bytes, (loaded magic).inp.readBytes 0 (loaded magic).inLen = some b := ⟨rfl, rfl, rfl, magic, rfl⟩

/-- The same without the input: NOP, and an ENCODE above SIZE_MAX (T-E13). -/
theorem witness_EveryCommandEnds_without_input :
    (({ State.reset with inLen := 1 } : State).busy = false ∧ ({ State.reset with inLen := 1 } : State).inp.readBytes 0 1 = none) ∧
      ({ State.reset with inLen := 4294967296 } : State).busy = false ∧
      sizeMax < ({ State.reset with inLen := 4294967296 } : State).inLen := by decide

/-- Two framers that differ in all a result may not depend on, with one input. -/
theorem witness_TheResultDependsOnTheInputAlone :
    (loaded []).busy = false ∧ ({ loaded [] with out := [(0, 0xff)], size := 9, status := .sizeMismatch } : State).busy = false ∧
      (∃ u t, execWith failCodec .encode (loaded []) = .next u ∧ EndsAfter failCodec 4 u t) ∧
      ∃ u t, execWith failCodec .encode { loaded [] with out := [(0, 0xff)], size := 9, status := .sizeMismatch } = .next u ∧
        EndsAfter failCodec 4 u t := by
  refine ⟨rfl, rfl, ⟨_, _, rfl, ends_encode.choose_spec.1⟩, _, _, rfl, rfl, rfl, ?_⟩
  intro j hj
  match j, hj with
  | 0, _ => exact ⟨_, rfl, rfl⟩
  | 1, _ => exact ⟨_, rfl, rfl⟩
  | 2, _ => exact ⟨_, rfl, rfl⟩
  | 3, _ => exact ⟨_, rfl, rfl⟩

/-- COPY keeps BC-VALID. -/
theorem copyCodec_valid : copyCodec.Valid := by
  intro src cap p h
  simp only [copyCodec, copyCompress] at h
  split at h <;> cases h
  simp [copyCodec, copyDecompress]

/-- The round trip of one byte: all seven steps of an ENCODE, then all six of a DECODE. -/
theorem witness_TheMachineRoundTrips :
    copyCodec.Valid ∧ (loaded [0x41]).busy = false ∧ (loaded [0x41]).inLen = ([0x41] : Bytes).length ∧
      (loaded [0x41]).inp.readBytes 0 ([0x41] : Bytes).length = some [0x41] ∧
      ∃ (u t s' u' t' : State), execWith copyCodec .encode (loaded [0x41]) = .next u ∧ EndsAfter copyCodec 7 u t ∧
        t.status = .ok ∧ s'.busy = false ∧ s'.inLen = t.outLen ∧ s'.inp.readBytes 0 s'.inLen = exposedOutput t ∧
        execWith copyCodec .decode s' = .next u' ∧ EndsAfter copyCodec 6 u' t' := by
  refine ⟨copyCodec_valid, rfl, rfl, rfl, _, _, loaded (magic ++ [1, 0, 0, 0, 0x41]), _, _, rfl, ⟨rfl, rfl, ?_⟩, rfl, rfl, rfl, rfl,
    rfl, rfl, rfl, ?_⟩
  · intro j hj
    match j, hj with
    | 0, _ => exact ⟨_, rfl, rfl⟩
    | 1, _ => exact ⟨_, rfl, rfl⟩
    | 2, _ => exact ⟨_, rfl, rfl⟩
    | 3, _ => exact ⟨_, rfl, rfl⟩
    | 4, _ => exact ⟨_, rfl, rfl⟩
    | 5, _ => exact ⟨_, rfl, rfl⟩
    | 6, _ => exact ⟨_, rfl, rfl⟩
  · intro j hj
    match j, hj with
    | 0, _ => exact ⟨_, rfl, rfl⟩
    | 1, _ => exact ⟨_, rfl, rfl⟩
    | 2, _ => exact ⟨_, rfl, rfl⟩
    | 3, _ => exact ⟨_, rfl, rfl⟩
    | 4, _ => exact ⟨_, rfl, rfl⟩
    | 5, _ => exact ⟨_, rfl, rfl⟩

theorem witness_DecodeUndoesEncode :
    copyCodec.Valid ∧ encodeFn copyCodec [0x41] = .ok (magic ++ [1, 0, 0, 0, 0x41]) := ⟨copyCodec_valid, by decide⟩

theorem witness_TheHeaderDoesNotDependOnTheCodec :
    encodeFn litCodec [0x7b, 0x7d] = .ok (magic ++ [2, 0, 0, 0, 0x20, 0x7b, 0x7d]) := by decide

theorem witness_AWrongMagicIsRejected : ¬∃ rest : Bytes, magic.take 7 = magic ++ rest := by
  rintro ⟨rest, h⟩
  have := congrArg List.length h
  simp at this

theorem witness_ATruncatedSizeFieldIsRejected : ([1, 2, 3] : Bytes).length ≤ 3 := by decide

theorem witness_AWrongLengthIsASizeMismatch :
    (5 : Word32) ≠ 0 ∧ copyCodec.decompressBlock [] (5 : Word32).toNat = .ok [] ∧
      ([] : Bytes).length ≠ (5 : Word32).toNat := by decide

theorem witness_SniffAgreesWithDecodesFirstStage :
    sniffFn (magic.take 7) = false ∧ decodeFn copyCodec (magic ++ [0, 0, 0, 0]) = .ok [] := by decide

theorem witness_WellFormedContainersDecode :
    copyCodec.Valid ∧ encodeFn copyCodec [0x41] = .ok (magic ++ [1, 0, 0, 0, 0x41]) ∧
      WellFormedContainer copyCodec (magic ++ [0, 0, 0, 0]) ∧ ([0xff] : Bytes) ≠ [] :=
  ⟨copyCodec_valid, by decide, ⟨by decide, by decide, 0, by decide, fun h => absurd rfl h, fun _ => rfl⟩, by decide⟩

theorem witness_EncodeSucceedsWhereTheCompressorDoes :
    encodeFn failCodec [0x41] = .err (.compressionFailed 0x0BAD) ∧
      decodeFn copyCodec (magic ++ [5, 0, 0, 0]) = .err (.sizeMismatch 5 0) ∧ ([0x41] : Bytes).length ≤ sizeMax := by decide

/-- A collaborator whose compressor never fails (the last clause of the same statement): it writes one byte, or nothing. -/
theorem witness_ACompressorThatNeverFails :
    ∃ c : Config, ∀ src cap e, c.compressBlock src cap ≠ .fail e :=
  ⟨{ copyCodec with
      compressBlock := fun src cap => .ok (src.take cap)
      compress_fits := by intro src cap p h; cases h; simp
      compress_error_fits := by intro src cap e h; cases h },
    by intro src cap e h; cases h⟩

/-- COPY keeps BC-BOUND, and a capacity above its bound is enough. -/
theorem witness_EncodeSucceedsWithTheBound :
    copyCodec.BoundSuffices ∧ ([0x41] : Bytes).length ≤ sizeMax ∧ copyCodec.compressBound ([0x41] : Bytes).length ≤ 100 ∧
      copyCodec.compressBlock [0x41] 100 = .ok [0x41] := by
  refine ⟨fun src cap more e room _ fails => ?_, by decide, by decide, by decide⟩
  have : copyCodec.compressBlock src cap = .ok src := if_pos room
  rw [this] at fails
  cases fails

theorem witness_TheFixturesKeepTheLaws :
    copyCodec.compressBound ([0x41] : Bytes).length ≤ 100 ∧ litCodec.compressBound ([0x41] : Bytes).length ≤ 100 := by decide

theorem witness_CommandsUnderTheCopyFixture :
    ([0x41] : Bytes).length ≤ sizeMax ∧ (1 : Word32) ≠ 0 ∧ ([0x41] : Bytes).length = (1 : Word32).toNat ∧
      ([] : Bytes).length < (1 : Word32).toNat ∧ (1 : Word32).toNat < ([0x41, 0x42] : Bytes).length := by decide

theorem witness_RegisterReadsReturnTheRegisters : 7 < 8 := by decide

/-- The host about to make one access. -/
def accessing (op : HostOp) : State := { State.reset with script := [op] }

/-- A framer at rest after a command that exposes one byte. -/
def exposing (out : Memory) : State := { State.reset with done := true, phase := .done, outLen := 1, out := out }

/-- LENW is 33 or more (R5). -/
theorem lt_lenw {v : Nat} (h : v < 2 ^ 33) : v < 2 ^ Config.hw.lenw :=
  lt_of_lt_of_le h (Nat.pow_le_pow_right (by decide) Config.hw.lenw_ge)

theorem witness_HostRegisterAccesses :
    pick (accessing (.rd 2)) = some .host ∧ pick (accessing (.wr 0 0xFFFFFFFE)) = some .host ∧
      (∀ v, pick (accessing (.wr 3 v)) = some .host) ∧ 2 ^ 33 - 1 < 2 ^ Config.hw.lenw ∧
      2 ^ Config.hw.lenw ≤ 2 ^ Config.hw.lenw ∧ (pick (accessing (.wr 1 2)) = some .host ∧ Nat.testBit 2 0 = false) ∧
      pick (accessing (.wr 9 1)) = some .host ∧ pick (accessing (.ifMatch 3)) = some .host ∧
      pick (accessing (.ifOk 3)) = some .host ∧ pick (accessing .copyback) = some .host :=
  ⟨by decide, by decide, fun _ => rfl, lt_lenw (by decide), Nat.le_refl _, by decide, by decide, by decide, by decide, by decide⟩

theorem witness_HostByteAccesses_in :
    (pick { compressing noRsp with script := [.wb .inp 0 1], turns := [.host] } = some .host ∧ (compressing noRsp).busy = true) ∧
      ((∀ i, pick (accessing (.wb .inp i 1)) = some .host) ∧ State.reset.busy = false ∧ 2 ^ 33 - 1 < 2 ^ Config.hw.lenw) ∧
      ((∀ i, pick (accessing (.rb .inp i)) = some .host) ∧ State.reset.inp.read 0 = none) ∧
      pick { loaded [0x41] with script := [.rb .inp 0] } = some .host ∧ (loaded [0x41]).inp.read 0 = some 0x41 ∧
      0 < 2 ^ Config.hw.lenw :=
  ⟨by decide, ⟨fun _ => rfl, rfl, lt_lenw (by decide)⟩, ⟨fun _ => rfl, rfl⟩, by decide, by decide, lt_lenw (by decide)⟩

theorem witness_HostByteAccesses_out :
    (pick (accessing (.wb .out 0 1)) = some .host ∧ pick (accessing (.wb .magicRom 0 1)) = some .host) ∧
      (pick { exposing [(0, 0x41)] with script := [.rb .out 0] } = some .host ∧ Memory.read [(0, 0x41)] 0 = some 0x41) ∧
      (pick { exposing [] with script := [.rb .out 0] } = some .host ∧ Memory.read [] 0 = none) ∧
      (pick (accessing (.rb .out 0)) = some .host ∧ ¬(State.reset.done = true ∧ 0 < State.reset.outLen)) ∧
      (pick (accessing (.rb .magicRom 7)) = some .host ∧ magic[7]? = some 0) ∧
      pick (accessing (.rb .magicRom 8)) = some .host := by decide

/-- The accesses COPYBACK goes on with. -/
theorem witness_HostByteAccesses_copy :
    (pick { exposing [(0, 0x41)] with script := [.copyRead 0 1] } = some .host ∧ (exposing [(0, 0x41)]).done = true ∧
        0 < (exposing [(0, 0x41)]).outLen ∧ (exposing [(0, 0x41)]).out.read 0 = some 0x41) ∧
      (pick (accessing (.copyRead 0 1)) = some .host ∧ State.reset.done = false) ∧
      (∀ i m, pick (accessing (.copyWrite i m 0x41)) = some .host) ∧ State.reset.busy = false ∧
      pick { compressing noRsp with script := [.copyWrite 0 1 0x41], turns := [.host] } = some .host :=
  ⟨by decide, by decide, fun _ _ => rfl, rfl, by decide⟩

theorem witness_WaitPollsStat :
    pick (accessing .wait) = some .host ∧
      pick { State.reset with done := true, phase := .done, script := [.wait] } = some .host := by decide

end Sys2Proof.Tests
end

/-! PROOFS. The machine is the configured one (O8), and no length ever needs more than LENW bits (O36). `Fits` is taken apart
into the widths, which hold in every phase, and what the phase adds; a move is then checked against each part on its own. -/

namespace Sys2Proof.Machine

/-- Settles O8: `exec`, `step` and runs are the machine at `Config.hw`. -/
theorem theMachineIsTheConfiguredOne : Obligations.TheMachineIsTheConfiguredOne :=
  ⟨exec_eq_execWith, step_eq_stepWith, core_run_eq_runWith⟩

section Keeps

variable {c : Config} {s t : State}

/-! ## The two parts of `Fits` -/

/-- The part of `Fits` that no phase conditions. -/
structure WidthsFit (c : Config) (s : State) : Prop where
  inLen : s.inLen < 2 ^ c.lenw
  outLen : s.outLen < 2 ^ c.lenw
  errActual : s.errActual < 2 ^ c.lenw
  bcErrinfo : s.bcErrinfo < 2 ^ c.bcew
  n : s.n < 2 ^ c.lenw
  cap : s.cap < 2 ^ c.lenw
  inPos : s.inPos < 2 ^ c.lenw
  outPos : s.outPos < 2 ^ c.lenw
  in_index : ∀ cell ∈ s.inp, cell.1 < 2 ^ c.lenw
  out_index : ∀ cell ∈ s.out, cell.1 < 2 ^ c.lenw
  src_off : s.bcReq.srcOff < 2 ^ c.lenw
  src_len : s.bcReq.srcLen < 2 ^ c.lenw
  dst_off : s.bcReq.dstOff < 2 ^ c.lenw
  dst_cap : s.bcReq.dstCap < 2 ^ c.lenw
  src : s.bcReq.valid = true → s.bcReq.srcOff + s.bcReq.srcLen < 2 ^ c.lenw
  dst : s.bcReq.valid = true → s.bcReq.dstOff + s.bcReq.dstCap < 2 ^ c.lenw
  rsp_len : s.bcRsp.len < 2 ^ c.lenw
  rsp_errinfo : s.bcRsp.errinfo < 2 ^ c.bcew
  rsp_inside : s.bcRsp.valid = true → s.bcRsp.fail = false → s.bcRsp.len ≤ s.bcReq.dstCap

/-- What `Fits` adds in the phase the state is in. -/
def PhaseFits (c : Config) (s : State) : Prop :=
  match s.phase with
  | .idle | .e1Size | .d1Magic | .s1Magic | .done => True
  | .e2Alloc => s.n ≤ sizeMax
  | .e3Hdr | .e4Empty | .e5Comp => s.n ≤ sizeMax ∧ s.cap = hdrLen + c.compressBound s.n
  | .e5Wait => s.n ≤ sizeMax ∧
      s.bcReq.srcOff = 0 ∧ s.bcReq.srcLen = s.n ∧ s.bcReq.dstOff = hdrLen ∧ s.bcReq.dstCap = c.compressBound s.n
  | .d2Size => s.inPos = magicLen ∧ magicLen ≤ s.n
  | .d3Empty | .d4Decomp => hdrLen ≤ s.n
  | .d4Wait =>
      s.bcReq.srcOff = hdrLen ∧ s.bcReq.srcLen = s.n - hdrLen ∧ s.bcReq.dstOff = 0 ∧ s.bcReq.dstCap = s.size.toNat

theorem Fits.widths (h : Fits c s) : WidthsFit c s := { h with }

/-- The two parts make up the whole. -/
theorem WidthsFit.fits (w : WidthsFit c s) (p : PhaseFits c s) : Fits c s :=
  { w with
    n_of_encode := by
      rintro (h | h | h | h | h) <;> simp only [PhaseFits, h] at p
      exacts [p, p.1, p.1, p.1, p.1]
    cap_of_encode := by
      rintro (h | h | h) <;> simp only [PhaseFits, h] at p
      exacts [p.2, p.2, p.2]
    req_of_e5 := by
      intro h
      simp only [PhaseFits, h] at p
      exact p.2
    n_of_d2 := by
      intro h
      simpa only [PhaseFits, h] using p
    n_of_d3 := by
      rintro (h | h) <;> simpa only [PhaseFits, h] using p
    req_of_d4 := by
      intro h
      simpa only [PhaseFits, h] using p }

/-! ## Constants below 2^LENW -/

/-- LENW is at least 33 (R5), so every 32-bit value fits. -/
theorem word_lt_lenw (c : Config) (v : Word32) : v.toNat < 2 ^ c.lenw :=
  lt_of_lt_of_le v.isLt (Nat.pow_le_pow_right (by omega) (by have := c.lenw_ge; omega))

theorem hdrLen_lt_lenw (c : Config) : hdrLen < 2 ^ c.lenw := word_lt_lenw c 12

theorem zero_lt_lenw (c : Config) : 0 < 2 ^ c.lenw := Nat.two_pow_pos _

/-! ## The shared operations -/

theorem WidthsFit.complete (w : WidthsFit c s) {len : Nat} (hlen : len < 2 ^ c.lenw) : Fits c (s.complete len) :=
  WidthsFit.fits { w with outLen := hlen } trivial

theorem WidthsFit.raise (w : WidthsFit c s) {k : ErrorKind} (actual : k.actual s.errActual < 2 ^ c.lenw)
    (errinfo : k.errinfo s.bcErrinfo < 2 ^ c.bcew) : Fits c (s.raise k) :=
  WidthsFit.fits { w with outLen := zero_lt_lenw c, errActual := actual, bcErrinfo := errinfo } trivial

theorem WidthsFit.consume (w : WidthsFit c s) : WidthsFit c s.consume :=
  { w with src := nofun, dst := nofun, rsp_inside := nofun }

/-- START takes N from IN_LEN, clears the cursors and withdraws the request (R166). -/
theorem WidthsFit.launch (w : WidthsFit c s) {code : BitVec 2} {first : Phase} : WidthsFit c (s.launch code first) :=
  { w with
    n := w.inLen
    outLen := zero_lt_lenw c
    errActual := zero_lt_lenw c
    bcErrinfo := Nat.two_pow_pos _
    inPos := zero_lt_lenw c
    outPos := zero_lt_lenw c
    src := nofun
    dst := nofun
    rsp_inside := nofun }

theorem fits_reset (c : Config) : Fits c State.reset := by
  have hl : 0 < 2 ^ c.lenw := zero_lt_lenw c
  have hb : 0 < 2 ^ c.bcew := Nat.two_pow_pos _
  exact WidthsFit.fits ⟨hl, hl, hl, hb, hl, hl, hl, hl, nofun, nofun, hl, hl, hl, hl, nofun, nofun, hl, hb, nofun⟩ trivial

/-- Outside the wait phases no response stands on the port (R155). -/
theorem FramerInv.rsp_not_valid (inv : FramerInv s) (p : s.phase.waits = false) : s.bcRsp.valid ≠ true := fun valid =>
  Bool.false_ne_true (p.symm.trans (inv.rsp_only valid))

/-! ## ENCODE -/

theorem Fits.after_e1Size (h : Fits c s) : Fits c (e1Size s) := by
  unfold e1Size
  split
  · exact h.widths.raise h.errActual h.bcErrinfo
  · rename_i fits
    have hn : s.n ≤ sizeMax := by simpa [ovf, sizeFits] using fits
    exact WidthsFit.fits { h.widths with } hn

theorem Fits.after_e2Alloc (h : Fits c s) (p : s.phase = .e2Alloc) : Fits c (e2Alloc c s) := by
  have hn : s.n ≤ sizeMax := h.n_of_encode (.inl p)
  exact WidthsFit.fits { h.widths with cap := c.bound_fits s.n hn } ⟨hn, rfl⟩

/-- Writing a header adds no byte but the first 12 of OUT. -/
theorem State.mem_putHeader_out {size : Word32} {cell : Host.Cell} (h : cell ∈ (s.putHeader size).out) :
    cell.1 < hdrLen ∨ cell ∈ s.out := by
  rw [State.putHeader_out] at h
  obtain ⟨-, below⟩ | h := Memory.mem_writeBytes h
  · exact .inl below
  · obtain ⟨-, below⟩ | h := Memory.mem_writeBytes h
    · exact .inl (lt_trans below (by decide))
    · exact .inr h

theorem Fits.after_e3Hdr (h : Fits c s) (p : s.phase = .e3Hdr) : Fits c (e3Hdr s) := by
  have hhdr := hdrLen_lt_lenw c
  have index : ∀ cell ∈ (e3Hdr s).out, cell.1 < 2 ^ c.lenw := fun cell hcell =>
    (State.mem_putHeader_out hcell).elim (lt_trans · hhdr) (h.out_index cell)
  exact WidthsFit.fits { h.widths with out_index := index, outPos := hhdr }
    ⟨h.n_of_encode (.inr (.inl p)), h.cap_of_encode (.inl p)⟩

theorem Fits.after_e4Empty (h : Fits c s) (p : s.phase = .e4Empty) : Fits c (e4Empty s) := by
  unfold e4Empty
  split
  · exact h.widths.complete h.outPos
  · exact WidthsFit.fits { h.widths with }
      ⟨h.n_of_encode (.inr (.inr (.inl p))), h.cap_of_encode (.inr (.inl p))⟩

/-- The window of the request ends at CAP. -/
theorem Fits.after_e5Comp (inv : FramerInv s) (h : Fits c s) (p : s.phase = .e5Comp) : Fits c (e5Comp s) := by
  have hcap : s.cap = hdrLen + c.compressBound s.n := h.cap_of_encode (.inr (.inr p))
  have room : s.cap - hdrLen = c.compressBound s.n := by omega
  have window : hdrLen + (s.cap - hdrLen) < 2 ^ c.lenw := by rw [room, ← hcap]; exact h.cap
  have noRsp := inv.rsp_not_valid (by rw [p]; rfl)
  exact WidthsFit.fits
    { h.widths with
      src_off := zero_lt_lenw c
      src_len := h.n
      dst_off := hdrLen_lt_lenw c
      dst_cap := lt_of_le_of_lt (Nat.sub_le _ _) h.cap
      src := fun _ => by simpa [e5Comp, compressRequest] using h.n
      dst := fun _ => window
      rsp_inside := fun v => absurd v noRsp }
    ⟨h.n_of_encode (.inr (.inr (.inr (.inl p)))), rfl, rfl, rfl, room⟩

/-- The payload lies in the window asked for (R149), so the output ends below 2^LENW. -/
theorem Fits.after_e5Wait (inv : FramerInv s) (h : Fits c s) (p : s.phase = .e5Wait) : Fits c (e5Wait s) := by
  unfold e5Wait
  split
  · rename_i answered
    split
    · exact h.widths.consume.raise h.errActual h.rsp_errinfo
    · rename_i succeeded
      obtain ⟨-, -, off, -⟩ := h.req_of_e5 p
      have window := h.dst (inv.req_iff.2 (by rw [p]; rfl))
      have inside := h.rsp_inside answered (by simpa [bcFail] using succeeded)
      have hlen : hdrLen + s.bcRsp.len < 2 ^ c.lenw := by omega
      have w : WidthsFit c { s.consume with outPos := hdrLen + s.bcRsp.len } := { h.widths.consume with outPos := hlen }
      exact w.complete hlen
  · exact h

/-! ## DECODE -/

/-- A Magic that matches is 8 bytes below N. -/
theorem magicLen_le_of_magicMatch {m : Memory} {n : Nat} (h : magicMatch m n = some true) : magicLen ≤ n := by
  unfold magicMatch at h
  split at h
  · cases h
  · omega

theorem Fits.after_d1Magic (h : Fits c s) (m : magicMatch s.inp s.n = some true) :
    Fits c { s with inPos := magicLen, phase := .d2Size } :=
  WidthsFit.fits { h.widths with inPos := word_lt_lenw c 8 } ⟨rfl, magicLen_le_of_magicMatch m⟩

theorem Fits.takeSize (h : Fits c s) (size : Word32) (below : hdrLen ≤ s.n) : Fits c (s.takeSize size) :=
  WidthsFit.fits { h.widths with inPos := hdrLen_lt_lenw c } below

theorem Fits.after_d3Empty (h : Fits c s) (p : s.phase = .d3Empty) : Fits c (d3Empty s) := by
  unfold d3Empty
  split
  · exact h.widths.complete (zero_lt_lenw c)
  · exact WidthsFit.fits { h.widths with } (h.n_of_d3 (.inl p))

/-- The source ends at N and the window at SIZE. -/
theorem Fits.after_d4Decomp (inv : FramerInv s) (h : Fits c s) (p : s.phase = .d4Decomp) : Fits c (d4Decomp s) := by
  have hn : hdrLen ≤ s.n := h.n_of_d3 (.inr p)
  have hsize := word_lt_lenw c s.size
  have source : hdrLen + (s.n - hdrLen) < 2 ^ c.lenw := by rw [Nat.add_sub_cancel' hn]; exact h.n
  have noRsp := inv.rsp_not_valid (by rw [p]; rfl)
  exact WidthsFit.fits
    { h.widths with
      cap := hsize
      src_off := hdrLen_lt_lenw c
      src_len := lt_of_le_of_lt (Nat.sub_le _ _) h.n
      dst_off := zero_lt_lenw c
      dst_cap := hsize
      src := fun _ => source
      dst := fun _ => by simpa [d4Decomp, decompressRequest] using hsize
      rsp_inside := fun v => absurd v noRsp }
    ⟨rfl, rfl, rfl, rfl⟩

theorem Fits.after_d4Wait (h : Fits c s) : Fits c (d4Wait s) := by
  have w : WidthsFit c s.consume := h.widths.consume
  unfold d4Wait
  split
  · split
    · exact w.raise h.errActual h.rsp_errinfo
    · split
      · exact w.complete (word_lt_lenw c s.size)
      · exact w.raise h.rsp_len h.bcErrinfo
  · exact h

/-! ## The agents -/

theorem FramerMove.keeps_fits (inv : FramerInv s) (h : Fits c s) (move : FramerMove c s t) : Fits c t := by
  cases move with
  | e1 p eq => exact eq ▸ h.after_e1Size
  | e2 p eq => exact eq ▸ h.after_e2Alloc p
  | e3 p eq => exact eq ▸ h.after_e3Hdr p
  | e4 p eq => exact eq ▸ h.after_e4Empty p
  | e5c p eq => exact eq ▸ h.after_e5Comp inv p
  | e5w p r eq => exact eq ▸ h.after_e5Wait inv p
  | d1Bad p m eq => exact eq ▸ h.widths.raise h.errActual h.bcErrinfo
  | d1Good p m eq => exact eq ▸ h.after_d1Magic m
  | d2Short p m eq => exact eq ▸ h.widths.raise h.errActual h.bcErrinfo
  | d2Present p m below size r eq => exact eq ▸ h.takeSize size below
  | d3 p eq => exact eq ▸ h.after_d3Empty p
  | d4c p eq => exact eq ▸ h.after_d4Decomp inv p
  | d4w p r eq => exact eq ▸ h.after_d4Wait
  | s1 p b m eq =>
    have w : WidthsFit c { s with matched := b } := { h.widths with }
    exact eq ▸ w.complete (zero_lt_lenw c)

/-- BC-FIT-C and BC-FIT-D (R149, R153) for the function the request names. -/
theorem engineFunction_ok_length {src w : Bytes} {cap : Nat} (h : engineFunction c s src cap = .ok w) :
    w.length ≤ cap := by
  unfold engineFunction at h
  split at h
  · exact c.compress_fits _ _ _ h
  · exact c.decompress_fits _ _ _ h

/-- A failure value has BCEW bits, whichever function failed (R5). -/
theorem engineFunction_fail_lt {src : Bytes} {cap e : Nat} (h : engineFunction c s src cap = .fail e) :
    e < 2 ^ c.bcew := by
  unfold engineFunction at h
  split at h
  · exact c.compress_error_fits _ _ _ h
  · exact c.decompress_error_fits _ _ _ h

/-- An answer within the laws of the port keeps the lengths: the bytes stay in the window, and a free value has the width of
its field. -/
theorem Fits.answer (h : Fits c s) (outstanding : s.bcReq.valid = true) {a : Answer}
    (ok_length : ∀ w, a = .ok w → w.length ≤ s.bcReq.dstCap) (fail_lt : ∀ e, a = .fail e → e < 2 ^ c.bcew) :
    Fits c (s.answer c a) := by
  cases a with
  | ok w =>
    have hw : w.length ≤ s.bcReq.dstCap := ok_length w rfl
    have window := h.dst outstanding
    have index : ∀ cell ∈ (s.answer c (.ok w)).out, cell.1 < 2 ^ c.lenw := by
      intro cell hcell
      obtain ⟨-, below⟩ | hcell := Memory.mem_writeBytes hcell
      · omega
      · exact h.out_index cell (Memory.mem_forget hcell)
    exact { h with
      out_index := index
      rsp_len := lt_of_le_of_lt hw h.dst_cap
      rsp_errinfo := Nat.mod_lt _ (Nat.two_pow_pos _)
      rsp_inside := fun _ _ => hw }
  | fail e =>
    exact { h with
      out_index := fun cell hcell => h.out_index cell (Memory.mem_forget hcell)
      rsp_len := Nat.mod_lt _ (Nat.two_pow_pos _)
      rsp_errinfo := fail_lt e rfl
      rsp_inside := nofun }

theorem StartMove.keeps_fits (h : Fits c s) (move : StartMove s t) : Fits c t := by
  cases move with
  | nop code eq => exact eq ▸ h.widths.launch.complete (zero_lt_lenw c)
  | encode code eq => exact eq ▸ h.widths.launch.fits trivial
  | decode code eq => exact eq ▸ h.widths.launch.fits trivial
  | sniff code eq => exact eq ▸ h.widths.launch.fits trivial

theorem HostMove.keeps_fits (h : Fits c s) (move : HostMove c s t) : Fits c t := by
  cases move with
  | quiet script replies eq => exact eq ▸ { h with }
  | cmd code eq => exact eq ▸ { h with }
  | inLen v fits eq => exact eq ▸ { h with inLen := fits }
  | inByte idle i b inside script eq =>
    have index : ∀ cell ∈ s.inp.write i b, cell.1 < 2 ^ c.lenw := by
      intro cell hcell
      obtain rfl | hcell := Memory.mem_write hcell
      · exact inside
      · exact h.in_index cell hcell
    exact eq ▸ { h with in_index := index }
  | start idle eq => exact (start_moves idle eq).keeps_fits h
  | reset eq => exact eq ▸ { fits_reset c with }

/-- Using up a turn changes nothing an invariant speaks of. -/
theorem FramerInv.takeTurn (inv : FramerInv s) : FramerInv s.takeTurn :=
  { inv with running_cleared := fun busy => { inv.running_cleared busy with } }

theorem Fits.takeTurn (h : Fits c s) : Fits c s.takeTurn := { h with }

theorem StepMove.keeps_fits (inv : FramerInv s) (h : Fits c s) (move : StepMove c s t) : Fits c t := by
  cases move with
  | framer who ready move => exact move.keeps_fits inv.takeTurn h.takeTurn
  | engine who ready inside src read eq =>
    have outstanding : s.bcReq.valid = true := by
      simp only [engineReady, Bool.and_eq_true] at ready
      exact ready.1
    exact eq ▸ h.takeTurn.answer outstanding (fun _ => engineFunction_ok_length) (fun _ => engineFunction_fail_lt)
  | host who op rest next move =>
    have h' : Fits c { s.takeTurn with script := rest } := { h with }
    exact move.keeps_fits h'
  | idle who idle eq => exact eq ▸ h.takeTurn

end Keeps

/-- Settles O36: each move of the framer, the engine and the host keeps `Fits`. -/
theorem noLengthEverWraps : Obligations.NoLengthEverWraps :=
  fun _ _ _ inv h hstep => (step_moves hstep).keeps_fits inv h

end Sys2Proof.Machine

/-! PROOFS. Every step keeps `FramerInv` (O34), reset meets it (O33), and so every reachable state meets R31 (O35); the reset
values (O31) and the register reads (O57). For a state in which a command runs, `FramerInv` is put together from what every phase
keeps (`Running`), CMD_L, and what the phase says of the port (`PortMatches`). -/

namespace Sys2Proof.Machine

section Invariant

variable {c : Config} {s t : State}

/-! ## The two parts of `FramerInv` while a command runs -/

/-- What a running command keeps in all its phases: BUSY, the result registers as START left them (R172), and the
canonical form of CMD and of both memories. -/
structure Running (s : State) : Prop where
  busy : s.busy = true
  done : s.done = false
  cleared : Cleared s
  cmd_reserved : s.cmd.extractLsb' 2 30 = 0
  in_wf : s.inp.wf = true
  out_wf : s.out.wf = true

/-- What the phase says of the port and of SIZE (R155, R105, R124). -/
structure PortMatches (s : State) : Prop where
  req_iff : s.bcReq.valid = true ↔ s.phase.waits = true
  rsp_only : s.bcRsp.valid = true → s.phase.waits = true
  op_of_e5 : s.phase = .e5Wait → s.bcReq.op = 0
  op_of_d4 : s.phase = .d4Wait → s.bcReq.op = 1
  size_of_d4 : s.phase = .d4Decomp ∨ s.phase = .d4Wait → s.size ≠ 0

/-- Neither a request nor a response stands on the port. -/
structure PortQuiet (s : State) : Prop where
  req : s.bcReq.valid = false
  rsp : s.bcRsp.valid = false

theorem PortQuiet.portMatches (q : PortQuiet s) (noWait : s.phase.waits = false)
    (size : s.phase = .d4Decomp → s.size ≠ 0) : PortMatches s where
  req_iff := by rw [q.req, noWait]
  rsp_only := by rw [q.rsp]; nofun
  op_of_e5 p := by rw [p] at noWait; cases noWait
  op_of_d4 p := by rw [p] at noWait; cases noWait
  size_of_d4 := by
    rintro (p | p)
    · exact size p
    · rw [p] at noWait; cases noWait

theorem FramerInv.running (inv : FramerInv s) (busy : s.busy = true) : Running s :=
  { inv with
    busy := busy
    done := Bool.eq_false_iff.2 fun done => (inv.busy_iff.1 busy).2 (inv.done_iff.1 done)
    cleared := inv.running_cleared busy }

theorem FramerInv.portMatches (inv : FramerInv s) : PortMatches s := { inv with }

theorem FramerInv.portQuiet (inv : FramerInv s) (noWait : s.phase.waits = false) : PortQuiet s where
  req := Bool.eq_false_iff.2 fun valid => Bool.false_ne_true (noWait.symm.trans (inv.req_iff.1 valid))
  rsp := Bool.eq_false_iff.2 (inv.rsp_not_valid noWait)

/-- The command code of a phase is in CMD_L while the state is in it. -/
theorem FramerInv.code (inv : FramerInv s) {p : Phase} {code : BitVec 2} (at_ : s.phase = p)
    (belongs : commandCode p = some code) : some code = some s.cmdL :=
  congrArg some (inv.command_of_phase code (at_ ▸ belongs)).symm

/-- The two parts, and CMD_L holding the command of the phase, make up the invariant of a running command. -/
theorem Running.framerInv (r : Running s) (command : commandCode s.phase = some s.cmdL) (port : PortMatches s) :
    FramerInv s :=
  have notIdle : s.phase ≠ .idle := fun p => by rw [p] at command; cases command
  have notDone : s.phase ≠ .done := fun p => by rw [p] at command; cases command
  { r, port, r.cleared with
    busy_iff := iff_of_true r.busy ⟨notIdle, notDone⟩
    done_iff := iff_of_false (by simp [r.done]) notDone
    running_cleared := fun _ => r.cleared
    error_hides := fun _ => r.cleared.outLen
    match_only := fun m => by simp [r.cleared.matched] at m
    counts_only := fun h => by simp [r.cleared.errExpected, r.cleared.errActual] at h
    errinfo_only := fun h => absurd r.cleared.bcErrinfo h
    mismatch_counts := fun h => by simp [r.cleared.status] at h
    command_of_phase := fun code h => Option.some.inj (command.symm.trans h) }

/-! ## The shared operations -/

/-- The success completion (R170) leaves the result registers as the command had them. -/
theorem Running.complete (r : Running s) (q : PortQuiet s) (len : Nat) : FramerInv (s.complete len) where
  busy_iff := by simp
  done_iff := by simp
  req_iff := by simp [q.req, Phase.waits]
  rsp_only := by simp [q.rsp]
  op_of_e5 := nofun
  op_of_d4 := nofun
  running_cleared := nofun
  error_hides h := absurd rfl h
  match_only m := by simp [r.cleared.matched] at m
  counts_only h := by simp [r.cleared.errExpected, r.cleared.errActual] at h
  errinfo_only h := absurd r.cleared.bcErrinfo h
  mismatch_counts := nofun
  command_of_phase := nofun
  size_of_d4 := nofun
  cmd_reserved := r.cmd_reserved
  in_wf := r.in_wf
  out_wf := r.out_wf

/-- Only a mismatch records a count (R206). -/
theorem ErrorKind.status_of_counts {k : ErrorKind} (h : k.expected 0 ≠ 0 ∨ k.actual 0 ≠ 0) : k.status = .sizeMismatch := by
  cases k with
  | sizeMismatch expected actual => rfl
  | invalidFormat | sizeOverflow | compressionFailed | decompressionFailed => exact absurd h (by simp [expected, actual])

/-- Only a failure of the collaborator records its value (R204 to R206). -/
theorem ErrorKind.status_of_errinfo {k : ErrorKind} (h : k.errinfo 0 ≠ 0) :
    k.status = .compressionFailed ∨ k.status = .decompressionFailed := by
  cases k with
  | compressionFailed e => exact .inl rfl
  | decompressionFailed e => exact .inr rfl
  | invalidFormat | sizeOverflow | sizeMismatch => exact absurd rfl h

/-- The failure completion (R206) records what its error kind gives and nothing else. -/
theorem Running.raise (r : Running s) (q : PortQuiet s) {k : ErrorKind}
    (counts : k.status = .sizeMismatch → k.expected 0 ≠ 0 ∧ k.actual 0 ≠ (k.expected 0).toNat) :
    FramerInv (s.raise k) :=
  have hexp : (s.raise k).errExpected = k.expected 0 := congrArg k.expected r.cleared.errExpected
  have hact : (s.raise k).errActual = k.actual 0 := congrArg k.actual r.cleared.errActual
  have hinfo : (s.raise k).bcErrinfo = k.errinfo 0 := congrArg k.errinfo r.cleared.bcErrinfo
  { r.complete q 0 with
    running_cleared := nofun
    error_hides := fun _ => rfl
    match_only := fun m => absurd m (by simp [r.cleared.matched])
    counts_only := fun h => ErrorKind.status_of_counts (by rwa [hexp, hact] at h)
    errinfo_only := fun h => ErrorKind.status_of_errinfo (by rwa [hinfo] at h)
    mismatch_counts := fun h => by rw [hexp, hact]; exact counts h }

/-- The way to a phase that does not wait, the port staying quiet. -/
theorem Running.goto (r : Running s) (q : PortQuiet s) (p : Phase) (command : commandCode p = some s.cmdL)
    (noWait : p.waits = false) (size : p = .d4Decomp → s.size ≠ 0) : FramerInv (s.goto p) :=
  have r' : Running (s.goto p) := { r with cleared := { r.cleared with } }
  have q' : PortQuiet (s.goto p) := { q with }
  r'.framerInv command (q'.portMatches noWait size)

theorem Running.consume (r : Running s) : Running s.consume := { r with cleared := { r.cleared with } }

/-- Consuming the response leaves nothing on the port (R155). -/
theorem State.consume_portQuiet (s : State) : PortQuiet s.consume := ⟨rfl, rfl⟩

/-- START clears the result registers (R166). -/
theorem FramerInv.launch (inv : FramerInv s) (code : BitVec 2) (first : Phase) : Running (s.launch code first) :=
  { inv with busy := rfl, done := rfl, cleared := ⟨rfl, rfl, rfl, rfl, rfl, rfl⟩ }

/-- START clears both valid bits (R166). -/
theorem State.launch_portQuiet (s : State) (code : BitVec 2) (first : Phase) : PortQuiet (s.launch code first) := ⟨rfl, rfl⟩

/-- Every field of the reset state is a literal (R30). -/
theorem framerInv_reset : FramerInv State.reset where
  busy_iff := by decide
  done_iff := by decide
  req_iff := by decide
  rsp_only := nofun
  op_of_e5 := nofun
  op_of_d4 := nofun
  running_cleared := nofun
  error_hides _ := rfl
  match_only := nofun
  counts_only := by decide
  errinfo_only := by decide
  mismatch_counts := nofun
  command_of_phase := nofun
  size_of_d4 := by decide
  cmd_reserved := rfl
  in_wf := rfl
  out_wf := rfl

/-! ## ENCODE -/

theorem FramerInv.after_e1Size (inv : FramerInv s) (r : Running s) (p : s.phase = .e1Size) : FramerInv (e1Size s) := by
  have q := inv.portQuiet (by rw [p]; rfl)
  unfold e1Size
  split
  · exact r.raise q nofun
  · exact r.goto q .e2Alloc (inv.code p rfl) rfl nofun

theorem FramerInv.after_e2Alloc (inv : FramerInv s) (r : Running s) (p : s.phase = .e2Alloc) :
    FramerInv (e2Alloc c s) :=
  have q := inv.portQuiet (by rw [p]; rfl)
  have r' : Running { s with cap := hdrLen + c.compressBound s.n } := { r with cleared := { r.cleared with } }
  r'.goto { q with } .e3Hdr (inv.code p rfl) rfl nofun

theorem FramerInv.after_e3Hdr (inv : FramerInv s) (r : Running s) (p : s.phase = .e3Hdr) : FramerInv (e3Hdr s) :=
  have q := inv.portQuiet (by rw [p]; rfl)
  have out_wf : (e3Hdr s).out.wf = true := Memory.wf_writeBytes _ _ _ (Memory.wf_writeBytes _ _ _ r.out_wf)
  have r' : Running (e3Hdr s) := { r with cleared := { r.cleared with }, out_wf := out_wf }
  r'.goto { q with } .e4Empty (inv.code p rfl) rfl nofun

theorem FramerInv.after_e4Empty (inv : FramerInv s) (r : Running s) (p : s.phase = .e4Empty) :
    FramerInv (e4Empty s) := by
  have q := inv.portQuiet (by rw [p]; rfl)
  unfold e4Empty
  split
  · exact r.complete q s.outPos
  · exact r.goto q .e5Comp (inv.code p rfl) rfl nofun

/-- The request posted is a compression, and no response stands on the port yet (R105). -/
theorem FramerInv.after_e5Comp (inv : FramerInv s) (r : Running s) (p : s.phase = .e5Comp) : FramerInv (e5Comp s) :=
  have r' : Running (e5Comp s) := { r with cleared := { r.cleared with } }
  r'.framerInv (inv.code p rfl)
    { req_iff := iff_of_true rfl rfl
      rsp_only := fun _ => rfl
      op_of_e5 := fun _ => rfl
      op_of_d4 := nofun
      size_of_d4 := nofun }

theorem FramerInv.after_e5Wait (inv : FramerInv s) (r : Running s) : FramerInv (e5Wait s) := by
  have q := s.consume_portQuiet
  unfold e5Wait
  split
  · split
    · exact r.consume.raise q nofun
    · have r' : Running { s.consume with outPos := hdrLen + s.bcRsp.len } :=
        { r.consume with cleared := { r.consume.cleared with } }
      exact r'.complete { q with } _
  · exact inv

/-! ## DECODE and SNIFF -/

theorem FramerInv.after_d1Magic (inv : FramerInv s) (r : Running s) (p : s.phase = .d1Magic) :
    FramerInv { s with inPos := magicLen, phase := .d2Size } :=
  have q := inv.portQuiet (by rw [p]; rfl)
  have r' : Running { s with inPos := magicLen } := { r with cleared := { r.cleared with } }
  r'.goto { q with } .d2Size (inv.code p rfl) rfl nofun

theorem FramerInv.takeSize (inv : FramerInv s) (r : Running s) (p : s.phase = .d2Size) (size : Word32) :
    FramerInv (s.takeSize size) :=
  have q := inv.portQuiet (by rw [p]; rfl)
  have r' : Running (s.takeSize size) := { r with cleared := { r.cleared with } }
  r'.goto { q with } .d3Empty (inv.code p rfl) rfl nofun

/-- Only a size other than 0 goes on to the decompression (R123). -/
theorem FramerInv.after_d3Empty (inv : FramerInv s) (r : Running s) (p : s.phase = .d3Empty) :
    FramerInv (d3Empty s) := by
  have q := inv.portQuiet (by rw [p]; rfl)
  unfold d3Empty
  split
  · exact r.complete q 0
  · rename_i nonzero
    exact r.goto q .d4Decomp (inv.code p rfl) rfl fun _ => by simpa [zeroSize] using nonzero

/-- The request posted is a decompression to a size other than 0 (R124). -/
theorem FramerInv.after_d4Decomp (inv : FramerInv s) (r : Running s) (p : s.phase = .d4Decomp) :
    FramerInv (d4Decomp s) :=
  have r' : Running (d4Decomp s) := { r with cleared := { r.cleared with } }
  have size : s.size ≠ 0 := inv.size_of_d4 (.inl p)
  r'.framerInv (inv.code p rfl)
    { req_iff := iff_of_true rfl rfl
      rsp_only := fun _ => rfl
      op_of_e5 := nofun
      op_of_d4 := fun _ => rfl
      size_of_d4 := fun _ => size }

/-- A mismatch records two different counts, the expected one not 0 (R125, R202). -/
theorem FramerInv.after_d4Wait (inv : FramerInv s) (r : Running s) (p : s.phase = .d4Wait) : FramerInv (d4Wait s) := by
  have q := s.consume_portQuiet
  unfold d4Wait
  split
  · split
    · exact r.consume.raise q nofun
    · split
      · exact r.consume.complete q s.size.toNat
      · rename_i differ
        have size : s.size ≠ 0 := inv.size_of_d4 (.inr p)
        have len : s.bcRsp.len ≠ s.size.toNat := by simpa [lenEq] using differ
        exact r.consume.raise q fun _ => ⟨size, len⟩
  · exact inv

/-- SNIFF completes with MATCH as it found it, and CMD_L holds its code (R141). -/
theorem FramerInv.after_s1Magic (inv : FramerInv s) (r : Running s) (p : s.phase = .s1Magic) (b : Bool) :
    FramerInv (({ s with matched := b } : State).complete 0) :=
  have code : s.cmdL = 3 := inv.command_of_phase 3 (by rw [p]; rfl)
  { r.complete (inv.portQuiet (by rw [p]; rfl)) 0 with
    running_cleared := nofun
    match_only := fun _ => ⟨rfl, code, rfl⟩ }

/-! ## The agents -/

theorem FramerMove.keeps_framerInv (inv : FramerInv s) (busy : s.busy = true) (move : FramerMove c s t) : FramerInv t := by
  have r := inv.running busy
  cases move with
  | e1 p eq => exact eq ▸ inv.after_e1Size r p
  | e2 p eq => exact eq ▸ inv.after_e2Alloc r p
  | e3 p eq => exact eq ▸ inv.after_e3Hdr r p
  | e4 p eq => exact eq ▸ inv.after_e4Empty r p
  | e5c p eq => exact eq ▸ inv.after_e5Comp r p
  | e5w p rsp eq => exact eq ▸ inv.after_e5Wait r
  | d1Bad p m eq => exact eq ▸ r.raise (inv.portQuiet (by rw [p]; rfl)) nofun
  | d1Good p m eq => exact eq ▸ inv.after_d1Magic r p
  | d2Short p m eq => exact eq ▸ r.raise (inv.portQuiet (by rw [p]; rfl)) nofun
  | d2Present p m below size rd eq => exact eq ▸ inv.takeSize r p size
  | d3 p eq => exact eq ▸ inv.after_d3Empty r p
  | d4c p eq => exact eq ▸ inv.after_d4Decomp r p
  | d4w p rsp eq => exact eq ▸ inv.after_d4Wait r p
  | s1 p b m eq => exact eq ▸ inv.after_s1Magic r p b

/-- The engine writes OUT and the response; a request outstanding means a wait phase (R155). -/
theorem FramerInv.answer (inv : FramerInv s) (outstanding : s.bcReq.valid = true) (a : Answer) :
    FramerInv (s.answer c a) := by
  have waits := inv.req_iff.1 outstanding
  have forgotten := Memory.wf_forget s.out s.bcReq.dstOff s.bcReq.dstCap inv.out_wf
  cases a with
  | ok w =>
    exact { inv with
      rsp_only := fun _ => waits
      running_cleared := fun busy => { inv.running_cleared busy with }
      out_wf := Memory.wf_writeBytes _ _ _ forgotten }
  | fail e =>
    exact { inv with
      rsp_only := fun _ => waits
      running_cleared := fun busy => { inv.running_cleared busy with }
      out_wf := forgotten }

theorem StartMove.keeps_framerInv (inv : FramerInv s) (move : StartMove s t) : FramerInv t := by
  have q := s.launch_portQuiet
  cases move with
  | nop code eq => exact eq ▸ (inv.launch 0 .done).complete (q _ _) 0
  | encode code eq => exact eq ▸ (inv.launch 1 .e1Size).framerInv rfl ((q _ _).portMatches rfl nofun)
  | decode code eq => exact eq ▸ (inv.launch 2 .d1Magic).framerInv rfl ((q _ _).portMatches rfl nofun)
  | sniff code eq => exact eq ▸ (inv.launch 3 .s1Magic).framerInv rfl ((q _ _).portMatches rfl nofun)

/-- CMD keeps two bits of what is written to it (R11, R75). -/
theorem extractLsb'_setWidth_command (code : BitVec 2) : (code.setWidth 32).extractLsb' 2 30 = 0 := by
  revert code
  decide

theorem HostMove.keeps_framerInv (inv : FramerInv s) (move : HostMove c s t) : FramerInv t := by
  have cleared := inv.running_cleared
  cases move with
  | quiet script replies eq => exact eq ▸ { inv with running_cleared := fun busy => { cleared busy with } }
  | cmd code eq =>
    exact eq ▸ { inv with
      running_cleared := fun busy => { cleared busy with }
      cmd_reserved := extractLsb'_setWidth_command code }
  | inLen v fits eq => exact eq ▸ { inv with running_cleared := fun busy => { cleared busy with } }
  | inByte idle i b inside script eq =>
    exact eq ▸ { inv with
      running_cleared := fun busy => { cleared busy with }
      in_wf := Memory.wf_write _ _ _ inv.in_wf }
  | start idle eq => exact (start_moves idle eq).keeps_framerInv inv
  | reset eq => exact eq ▸ { framerInv_reset with running_cleared := nofun }

theorem StepMove.keeps_framerInv (inv : FramerInv s) (move : StepMove c s t) : FramerInv t := by
  cases move with
  | framer who ready move =>
    have busy : s.busy = true := by
      simp only [framerReady, Bool.and_eq_true] at ready
      exact ready.1.1
    exact move.keeps_framerInv inv.takeTurn busy
  | engine who ready inside src read eq =>
    have outstanding : s.bcReq.valid = true := by
      simp only [engineReady, Bool.and_eq_true] at ready
      exact ready.1
    exact eq ▸ inv.takeTurn.answer outstanding _
  | host who op rest next move =>
    have inv' : FramerInv { s.takeTurn with script := rest } :=
      { inv with running_cleared := fun busy => { inv.running_cleared busy with } }
    exact move.keeps_framerInv inv'
  | idle who idle eq => exact eq ▸ inv.takeTurn

end Invariant

/-- Settles O34: each move of the framer, the engine and the host keeps `FramerInv`. -/
theorem everyStepKeepsTheInvariant : Obligations.EveryStepKeepsTheInvariant :=
  fun _ _ _ inv hstep => (step_moves hstep).keeps_framerInv inv

/-- Settles O33: the literals of the reset state meet both invariants. -/
theorem theInvariantsHoldAtReset : Obligations.TheInvariantsHoldAtReset := ⟨framerInv_reset, fits_reset⟩

/-! ## R31 in every reachable state -/

/-- A wait phase is one of two (R167). -/
theorem Phase.waits_iff (p : Phase) : p.waits = true ↔ p = .e5Wait ∨ p = .d4Wait := by
  cases p <;> decide

/-- R31 (a) to (h) are part of the invariant every step keeps. -/
theorem FramerInv.specInvariant {s : State} (inv : FramerInv s) : SpecInvariant s where
  a := inv.busy_iff
  b := inv.done_iff
  c := by
    refine ⟨fun ⟨busy, done⟩ => (inv.busy_iff.1 busy).2 (inv.done_iff.1 done), ?_⟩
    rw [← Bool.not_eq_true, ← Bool.not_eq_true, inv.busy_iff, inv.done_iff]
    constructor
    · rintro ⟨notRunning, notDone⟩
      by_contra notIdle
      exact notRunning ⟨notIdle, notDone⟩
    · intro idle
      simp [idle]
  d valid := s.phase.waits_iff.1 (inv.req_iff.1 valid)
  e valid := s.phase.waits_iff.1 (inv.rsp_only valid)
  f _ := inv.error_hides
  g := inv.match_only
  h := ⟨inv.counts_only, inv.errinfo_only⟩

/-- Settles O35: O34 along the run, from a reset state whatever its schedule and script. -/
theorem reachableStatesMeetTheSpecsInvariants : Obligations.ReachableStatesMeetTheSpecsInvariants := by
  intro k turns script s run
  have start : FramerInv { State.reset with turns := turns, script := script } :=
    { framerInv_reset with running_cleared := nofun }
  rw [core_run_eq_runWith] at run
  exact (runWith_keeps Config.hw FramerInv (everyStepKeepsTheInvariant Config.hw) k _ s start run).specInvariant

/-! ## Reset values and register reads -/

/-- Settles O31: each value is a literal of `State.reset`, and the ROM is Magic by definition. -/
theorem resetLeavesTheSpecsValues : Obligations.ResetLeavesTheSpecsValues :=
  ⟨rfl, rfl, rfl, rfl, rfl, rfl, rfl, rfl, rfl, rfl, rfl, rfl, rfl, rfl, by decide, fun _ _ => rfl⟩

/-- A register number above 7 names no register (R75). -/
theorem readReg_of_gt (s : State) {reg : Nat} (h : 7 < reg) : readReg s reg = 0 := by
  obtain ⟨k, rfl⟩ := Nat.exists_eq_add_of_lt h
  rw [show 7 + k + 1 = k + 8 by omega]
  rfl

/-- Bits 6:4 of STAT are STATUS (R13): the flags stand below them. -/
theorem extractLsb'_statWord_status (s : State) : (statWord s).extractLsb' 4 3 = s.status.code := by
  ext i hi
  have inStatus : i < 32 ∧ 4 + i < 32 ∧ ¬4 + i ≤ 1 ∧ 4 + i - 2 ≠ 0 := by omega
  simp [statWord, inStatus, hi]

/-- The bits of STAT above STATUS are 0 (R75). -/
theorem extractLsb'_statWord_reserved (s : State) : (statWord s).extractLsb' 7 25 = 0 := by
  ext i hi
  have aboveStatus : s.status.code.getLsbD (7 + i - 4) = false := BitVec.getLsbD_of_ge _ _ (by omega)
  have aboveFlags : 7 + i - 2 ≠ 0 := by omega
  simp [statWord, aboveStatus, aboveFlags]

/-- Bits 3:0 of STAT: the three flags and a reserved 0 (R13, R75). -/
theorem getLsbD_statWord_low (s : State) :
    (statWord s).getLsbD 0 = s.busy ∧ (statWord s).getLsbD 1 = s.done ∧ (statWord s).getLsbD 2 = s.matched ∧
      (statWord s).getLsbD 3 = false := by
  simp [statWord]

/-- Settles O57: the registers by number, then STAT by its fields. -/
theorem registerReadsReturnTheRegisters : Obligations.RegisterReadsReturnTheRegisters := by
  intro s
  obtain ⟨busy, done, matched, reserved⟩ := getLsbD_statWord_low s
  exact ⟨rfl, rfl, rfl, rfl, rfl, rfl, rfl, rfl, fun _ => readReg_of_gt s, busy, done, matched, reserved,
    extractLsb'_statWord_status s, extractLsb'_statWord_reserved s⟩

end Sys2Proof.Machine

/-! PROOFS. The host's byte accesses (O59): what `readByte` and `writeByte` answer in each case, and the host's turn as one
access of its script. -/

namespace Sys2Proof.Machine

section ByteAccess

variable {c : Config} {s : State} {i : Nat} {b : Byte} {k : Byte → State}

/-! ## A byte write -/

theorem writeByte_inp_of_busy (busy : s.busy = true) : writeByte c .inp i b s = .refused .hostWroteInWhileBusy := by
  simp [writeByte, busy]

theorem writeByte_inp_of_le (idle : s.busy = false) (outside : 2 ^ c.lenw ≤ i) :
    writeByte c .inp i b s = .fault .noSuchIndex := by
  simp [writeByte, idle, outside]

theorem writeByte_inp_of_lt (idle : s.busy = false) (inside : i < 2 ^ c.lenw) :
    writeByte c .inp i b s = .next { s with inp := s.inp.write i b } := by
  simp [writeByte, idle, inside]

/-- The write stores its byte and leaves every other byte of IN and every other field of the state. -/
theorem writeByte_inp_stores (idle : s.busy = false) (inside : i < 2 ^ c.lenw) :
    ∃ t, writeByte c .inp i b s = .next t ∧ t = { s with inp := t.inp } ∧ t.inp.read i = some b ∧
      ∀ a, a ≠ i → t.inp.read a = s.inp.read a :=
  ⟨_, writeByte_inp_of_lt idle inside, rfl, Memory.read_write_same s.inp i b,
    fun _ other => Memory.read_write_of_ne s.inp b other⟩

/-! ## A byte read -/

theorem readByte_inp_of_le (outside : 2 ^ c.lenw ≤ i) : readByte c .inp i s k = .fault .noSuchIndex := by
  simp [readByte, outside]

theorem readByte_inp_of_none (inside : i < 2 ^ c.lenw) (unwritten : s.inp.read i = none) :
    readByte c .inp i s k = .fault .inByteHasNoValue := by
  simp [readByte, inside, unwritten]

theorem readByte_inp_of_some (inside : i < 2 ^ c.lenw) (written : s.inp.read i = some b) :
    readByte c .inp i s k = .next (k b) := by
  simp [readByte, inside, written]

variable (c)

theorem readByte_out_of_hidden (hidden : ¬(s.done = true ∧ i < s.outLen)) :
    readByte c .out i s k = .refused .hostReadHiddenOut := by
  have guard : (s.done && decide (i < s.outLen)) = false := by simpa using hidden
  simp [readByte, guard]

theorem readByte_out_of_none (done : s.done = true) (exposed : i < s.outLen) (noValue : s.out.read i = none) :
    readByte c .out i s k = .fault .outByteHasNoValue := by
  simp [readByte, done, exposed, noValue]

theorem readByte_out_of_some (done : s.done = true) (exposed : i < s.outLen) (value : s.out.read i = some b) :
    readByte c .out i s k = .next (k b) := by
  simp [readByte, done, exposed, value]

theorem readByte_magicRom_of_some (value : magic[i]? = some b) : readByte c .magicRom i s k = .next (k b) := by
  simp only [readByte, MagicRom.byte, value]

/-- MAGIC_ROM ends at index 8 (R24). -/
theorem readByte_magicRom_of_le (outside : 8 ≤ i) : readByte c .magicRom i s k = .fault .noSuchIndex := by
  have noByte : magic[i]? = none := List.getElem?_eq_none outside
  simp only [readByte, MagicRom.byte, noByte]

end ByteAccess

/-- The host's turn makes the first access of its script (R76). -/
theorem step_of_host {s : State} {op : HostOp} {rest : List HostOp} (who : pick s = some .host)
    (next : s.script = op :: rest) :
    step s = hostAccess Config.hw exec op { s with turns := s.turns.tail, script := rest } := by
  simp only [step, stepBy, who, hostTurn, State.takeTurn, next]

/-- Settles O59: each clause is one case of `writeByte` or `readByte`; a byte of COPYBACK is the case of OUT, then that of IN,
the next access already at the head of the script. -/
theorem hostByteAccesses : Obligations.HostByteAccesses := by
  intro s rest who s'
  have turn {op : HostOp} (next : s.script = op :: rest) : step s = hostAccess Config.hw exec op s' := step_of_host who next
  refine ⟨?wbBusy, ?wbStores, ?wbOutside, ?wbOut, ?wbRom, ?rbOutside, ?rbUnwritten, ?rbWritten, ?outValue, ?outNoValue,
    ?outHidden, ?romByte, ?romOutside, ?copyRead, ?copyReadHidden, ?copyWriteOutside, ?copyWriteBusy, ?copyWriteStores⟩
  case wbBusy => exact fun _ _ next busy => (turn next).trans (writeByte_inp_of_busy busy)
  case wbStores => exact fun _ _ next idle inside => turn next ▸ writeByte_inp_stores (s := s') idle inside
  case wbOutside => exact fun _ _ next idle outside => (turn next).trans (writeByte_inp_of_le idle outside)
  case wbOut => exact fun _ _ next => turn next
  case wbRom => exact fun _ _ next => turn next
  case rbOutside => exact fun _ next outside => (turn next).trans (readByte_inp_of_le outside)
  case rbUnwritten => exact fun _ next inside unwritten => (turn next).trans (readByte_inp_of_none inside unwritten)
  case rbWritten => exact fun _ _ next inside written => (turn next).trans (readByte_inp_of_some inside written)
  case outValue =>
    exact fun _ _ next done exposed value => (turn next).trans (readByte_out_of_some Config.hw done exposed value)
  case outNoValue =>
    exact fun _ next done exposed noValue => (turn next).trans (readByte_out_of_none Config.hw done exposed noValue)
  case outHidden => exact fun _ next hidden => (turn next).trans (readByte_out_of_hidden Config.hw hidden)
  case romByte => exact fun _ _ next value => (turn next).trans (readByte_magicRom_of_some Config.hw value)
  case romOutside => exact fun _ next outside => (turn next).trans (readByte_magicRom_of_le Config.hw outside)
  case copyRead =>
    exact fun _ _ _ next done exposed value => (turn next).trans (readByte_out_of_some Config.hw done exposed value)
  case copyReadHidden => exact fun _ _ next hidden => (turn next).trans (readByte_out_of_hidden Config.hw hidden)
  case copyWriteOutside => exact fun _ _ _ next idle outside => (turn next).trans (writeByte_inp_of_le idle outside)
  case copyWriteBusy => exact fun _ _ _ next busy => (turn next).trans (writeByte_inp_of_busy busy)
  case copyWriteStores =>
    exact fun i m _ next idle inside =>
      turn next ▸ writeByte_inp_stores (s := s'.willDo [copyRest (i + 1) m]) idle inside

end Sys2Proof.Machine

/-! PROOFS. The encodings (O2, O3, O4, O5). The size field reads back as it was written, so a byte sequence has the header of
`size` iff it is Magic, the four bytes of `size` and a Payload; every statement about headers is read off that form. -/

namespace Sys2Proof

/-! ## The size field -/

/-- LE32_DEC undoes LE32_ENC (R92), whatever bytes follow. -/
theorem sizeField_le32Enc_append (v : Word32) (rest : Bytes) : sizeField (le32Enc v ++ rest) = some v := by
  have hv := v.isLt
  refine congrArg some (BitVec.eq_of_toNat_eq ?_)
  change (BitVec.ofNat 32 _).toNat = _
  simp only [BitVec.toNat_ofNat, BitVec.extractLsb'_toNat, Nat.shiftRight_eq_div_pow]
  omega

/-- LE32_ENC undoes LE32_DEC (R92): the sum has each byte as one of its digits to base 256. -/
theorem le32Enc_le32Dec (b0 b1 b2 b3 : Byte) : le32Enc (le32Dec b0 b1 b2 b3) = [b0, b1, b2, b3] := by
  have h0 := b0.isLt
  have h1 := b1.isLt
  have h2 := b2.isLt
  have h3 := b3.isLt
  simp only [le32Enc, le32Dec, List.cons.injEq, and_true]
  refine ⟨?_, ?_, ?_, ?_⟩ <;> apply BitVec.eq_of_toNat_eq <;>
    simp only [BitVec.extractLsb'_toNat, BitVec.toNat_ofNat, Nat.shiftRight_eq_div_pow] <;> omega

/-- A size field is there iff four bytes are (R62). -/
theorem sizeField_eq_none_iff (t : Bytes) : sizeField t = none ↔ t.length ≤ 3 := by
  match t with
  | [] | [_] | [_, _] | [_, _, _] => simp [sizeField]
  | _ :: _ :: _ :: _ :: _ => simp [sizeField]

/-- The size field of a sequence is `size` iff the sequence begins with the four bytes of `size`. -/
theorem sizeField_eq_some_iff (t : Bytes) (size : Word32) :
    sizeField t = some size ↔ ∃ payload, t = le32Enc size ++ payload := by
  constructor
  · intro h
    match t with
    | [] | [_] | [_, _] | [_, _, _] => cases h
    | b0 :: b1 :: b2 :: b3 :: payload =>
      cases h
      exact ⟨payload, by rw [le32Enc_le32Dec]; rfl⟩
  · rintro ⟨payload, rfl⟩
    exact sizeField_le32Enc_append size payload

/-! ## Headers -/

theorem magicLen_le_magic_append (t : Bytes) : magicLen ≤ (magic ++ t).length := by
  rw [List.length_append]
  exact Nat.le_add_right magicLen t.length

theorem take_magic_append (t : Bytes) : (magic ++ t).take magicLen = magic := rfl

theorem drop_magic_append (t : Bytes) : (magic ++ t).drop magicLen = t := rfl

/-- The first 8 bytes are Magic iff the sequence is Magic and a rest (R61). -/
theorem take_eq_magic_iff (b : Bytes) : b.take magicLen = magic ↔ ∃ t, b = magic ++ t := by
  constructor
  · intro h
    exact ⟨b.drop magicLen, by rw [← h, List.take_append_drop]⟩
  · rintro ⟨t, rfl⟩
    exact take_magic_append t

theorem decodeHeader_of_length_lt {b : Bytes} (short : b.length < magicLen) :
    decodeHeader b = .error .headerTooShort := if_pos short

theorem decodeHeader_of_take_ne {b : Bytes} (long : magicLen ≤ b.length) (differs : b.take magicLen ≠ magic) :
    decodeHeader b = .error .badMagic := by
  rw [decodeHeader, if_neg (Nat.not_lt.2 long), if_pos differs]

/-- After Magic the size field alone decides (R62, R67). -/
theorem decodeHeader_magic_append (t : Bytes) :
    decodeHeader (magic ++ t) = (sizeField t).elim (.error .truncatedSize) (.ok ∘ .containerHdr) := by
  rw [decodeHeader, if_neg (Nat.not_lt.2 (magicLen_le_magic_append t)), if_neg (not_not.2 (take_magic_append t)),
    drop_magic_append]
  cases sizeField t <;> rfl

theorem decodeHeader_of_truncated {t : Bytes} (short : t.length ≤ 3) :
    decodeHeader (magic ++ t) = .error .truncatedSize := by
  rw [decodeHeader_magic_append, (sizeField_eq_none_iff t).2 short]
  rfl

/-- A header decodes to the size it declares, whatever Payload follows (R60). -/
theorem decodeHeader_header (size : Word32) (payload : Bytes) :
    decodeHeader (magic ++ le32Enc size ++ payload) = .ok (.containerHdr size) := by
  rw [List.append_assoc, decodeHeader_magic_append, sizeField_le32Enc_append]
  rfl

/-- Nothing else decodes: a sequence that does is a header and a Payload. -/
theorem eq_header_of_decodeHeader {b : Bytes} {i : Instr} (h : decodeHeader b = .ok i) :
    ∃ size payload, i = .containerHdr size ∧ b = magic ++ le32Enc size ++ payload := by
  by_cases short : b.length < magicLen
  · rw [decodeHeader_of_length_lt short] at h
    cases h
  by_cases matched : b.take magicLen = magic
  · obtain ⟨t, rfl⟩ := (take_eq_magic_iff b).1 matched
    rw [decodeHeader_magic_append] at h
    cases field : sizeField t with
    | none => rw [field] at h; cases h
    | some size =>
      rw [field] at h
      cases h
      obtain ⟨payload, rfl⟩ := (sizeField_eq_some_iff t size).1 field
      exact ⟨size, payload, rfl, (List.append_assoc ..).symm⟩
  · rw [decodeHeader_of_take_ne (Nat.not_lt.1 short) matched] at h
    cases h

/-! ## Command and port words -/

/-- The command a word decodes to encodes to the word's low two bits, the reserved bits cleared (R70, R75). -/
theorem encode_decodeCommand (word : Word32) :
    encode (decodeCommand word) = .cmd ((word.extractLsb' 0 2).setWidth 32) := by
  unfold decodeCommand
  generalize word.extractLsb' 0 2 = code
  revert code
  decide

theorem encode_decodePortOp (op : BitVec 1) : encode (decodePortOp op) = .portOp op := by
  revert op
  decide

/-! ## Decoder and encoder -/

/-- Settles O2: the six words without operands are literals; a header is the one of `decodeHeader_header`, no Payload behind it. -/
theorem decodeOfEncodeIsTheInstruction : Obligations.DecodeOfEncodeIsTheInstruction := by
  intro i _
  cases i with
  | nop | encode | decode | sniff | compress | decompress => rfl
  | containerHdr size => exact decodeHeader_header size []

/-- Settles O3: by the format of the word. -/
theorem aWordDecodesOnlyFromItsEncoding : Obligations.AWordDecodesOnlyFromItsEncoding := by
  refine ⟨?command, ?portOp, ?container⟩
  case command =>
    rintro word i ⟨⟩
    exact encode_decodeCommand word
  case portOp =>
    rintro op i ⟨⟩
    exact encode_decodePortOp op
  case container =>
    intro bytes i h
    obtain ⟨size, payload, rfl, rfl⟩ := eq_header_of_decodeHeader h
    exact ⟨magic ++ le32Enc size, payload, rfl, rfl, rfl⟩

/-- Settles O4: one case of `decodeHeader` each. -/
theorem illegalHeadersAreRejectedByName : Obligations.IllegalHeadersAreRejectedByName := by
  refine ⟨?short, ?wrongMagic, ?truncated, ?complete⟩
  case short => exact fun _ => decodeHeader_of_length_lt
  case wrongMagic => exact fun _ => decodeHeader_of_take_ne
  case truncated => exact fun _ => decodeHeader_of_truncated
  case complete =>
    intro t long
    have present : sizeField t ≠ none := fun absent => by
      have := (sizeField_eq_none_iff t).1 absent
      omega
    obtain ⟨size, field⟩ := Option.ne_none_iff_exists'.1 present
    exact ⟨size, by rw [decode, decodeHeader_magic_append, field]; rfl⟩

/-- Settles O5: the four words are evaluated. -/
theorem theTablesWordsDecode : Obligations.TheTablesWordsDecode := ⟨rfl, rfl, rfl, rfl⟩

end Sys2Proof

/-! PROOFS. The well-formed Container (O53): what ENCODE and DECODE as functions give, and R64, on a header and a Payload. -/

namespace Sys2Proof.Machine

section Containers

variable {c : Config} {d b : Bytes} {size : Word32} {payload : Bytes}

/-! ## DECODE -/

/-- DECODE passes stage 1 on every sequence that begins with Magic (R120). -/
theorem not_rejected_of_magic (t : Bytes) :
    ¬((magic ++ t).length < magicLen ∨ (magic ++ t).take magicLen ≠ magic) := by
  rintro (short | differs)
  · exact Nat.not_lt.2 (magicLen_le_magic_append t) short
  · exact differs (take_magic_append t)

theorem not_rejected_of_header (size : Word32) (payload : Bytes) :
    ¬((magic ++ le32Enc size ++ payload).length < magicLen ∨ (magic ++ le32Enc size ++ payload).take magicLen ≠ magic) := by
  rw [List.append_assoc]
  exact not_rejected_of_magic _

/-- The size field of a header, whatever Payload follows. -/
theorem sizeField_of_header (size : Word32) (payload : Bytes) :
    sizeField ((magic ++ le32Enc size ++ payload).drop magicLen) = some size := by
  rw [List.append_assoc, drop_magic_append, sizeField_le32Enc_append]

theorem drop_header (size : Word32) (payload : Bytes) :
    (magic ++ le32Enc size ++ payload).drop hdrLen = payload := rfl

/-- A zero size ends DECODE at once, whatever follows (R66). -/
theorem decodeFn_of_zero (c : Config) (payload : Bytes) : decodeFn c (magic ++ le32Enc 0 ++ payload) = .ok [] := by
  simp only [decodeFn, if_neg (not_rejected_of_header 0 payload), sizeField_of_header, if_true]

/-- With a size that is not zero, DECODE succeeds where the decompressor returns exactly that many bytes. -/
theorem decodeFn_of_decompressed {w : Bytes} (nonzero : size ≠ 0)
    (ok : c.decompressBlock payload size.toNat = .ok w) (length : w.length = size.toNat) :
    decodeFn c (magic ++ le32Enc size ++ payload) = .ok w := by
  simp only [decodeFn, if_neg (not_rejected_of_header size payload), sizeField_of_header, if_neg nonzero, drop_header, ok,
    if_pos length]

/-! ## ENCODE -/

/-- An output of ENCODE is the header of the length and, unless the input is empty, what the compressor returned (R100). -/
theorem encodeFn_eq_ok (h : encodeFn c d = .ok b) :
    d.length ≤ sizeMax ∧ ∃ payload, b = magic ++ le32Enc (trunc32 d.length) ++ payload ∧
      (d.length = 0 → payload = []) ∧
      (d.length ≠ 0 → c.compressBlock d (c.compressBound d.length) = .ok payload) := by
  unfold encodeFn at h
  split at h
  case isTrue => cases h
  case isFalse fits =>
    refine ⟨Nat.not_lt.1 fits, ?_⟩
    split at h
    case isTrue empty =>
      cases h
      exact ⟨[], (List.append_nil _).symm, fun _ => rfl, fun nonempty => absurd empty nonempty⟩
    case isFalse nonempty =>
      split at h
      case h_1 => cases h
      case h_2 payload ok =>
        cases h
        exact ⟨payload, rfl, fun empty => absurd empty nonempty, fun _ => ok⟩

/-- A length that passes the check of R101 loses no bit in the size field. -/
theorem toNat_trunc32 {n : Nat} (fits : n ≤ sizeMax) : (trunc32 n).toNat = n :=
  Nat.mod_eq_of_lt (Nat.lt_succ_of_le fits)

/-! ## The well-formed Container -/

/-- R64 on a header and a Payload. -/
theorem wellFormedContainer_header_iff :
    WellFormedContainer c (magic ++ le32Enc size ++ payload) ↔
      (size ≠ 0 → ∃ w, c.decompressBlock payload size.toNat = .ok w ∧ w.length = size.toNat) ∧
        (size = 0 → payload = []) := by
  have length : (magic ++ le32Enc size ++ payload).length = hdrLen + payload.length := List.length_append
  have noPayload : (magic ++ le32Enc size ++ payload).length = hdrLen ↔ payload = [] := by
    rw [length, Nat.add_eq_left, List.length_eq_zero_iff]
  constructor
  · rintro ⟨-, -, declared, field, decompresses, ends⟩
    obtain rfl : size = declared := Option.some.inj ((sizeField_of_header size payload).symm.trans field)
    exact ⟨decompresses, fun zero => noPayload.1 (ends zero)⟩
  · rintro ⟨decompresses, ends⟩
    exact ⟨length ▸ Nat.le_add_right _ _, rfl, size, sizeField_of_header size payload, decompresses,
      fun zero => noPayload.2 (ends zero)⟩

/-- A well-formed Container is a header and a Payload. -/
theorem WellFormedContainer.eq_header (h : WellFormedContainer c b) :
    ∃ size payload, b = magic ++ le32Enc size ++ payload := by
  obtain ⟨-, matched, size, field, -, -⟩ := h
  obtain ⟨t, rfl⟩ := (take_eq_magic_iff b).1 matched
  obtain ⟨payload, rfl⟩ := (sizeField_eq_some_iff t size).1 field
  exact ⟨size, payload, (List.append_assoc ..).symm⟩

/-- Under BC-VALID (R151) ENCODE's Payload decompresses to the input, whose length the header declares. -/
theorem wellFormedContainer_of_encodeFn (valid : c.Valid) (h : encodeFn c d = .ok b) : WellFormedContainer c b := by
  obtain ⟨fits, payload, rfl, ofEmpty, ofNonempty⟩ := encodeFn_eq_ok h
  have declared : (trunc32 d.length).toNat = d.length := toNat_trunc32 fits
  rw [wellFormedContainer_header_iff, declared]
  constructor
  · intro nonzero
    have nonempty : d.length ≠ 0 := fun empty => nonzero (congrArg trunc32 empty)
    exact ⟨d, valid d _ payload (ofNonempty nonempty), rfl⟩
  · intro zero
    rw [zero] at declared
    exact ofEmpty declared.symm

theorem WellFormedContainer.decodes (h : WellFormedContainer c b) : ∃ w, decodeFn c b = .ok w := by
  obtain ⟨size, payload, rfl⟩ := h.eq_header
  obtain ⟨decompresses, -⟩ := wellFormedContainer_header_iff.1 h
  by_cases zero : size = 0
  · exact ⟨[], zero ▸ decodeFn_of_zero c payload⟩
  · obtain ⟨w, ok, length⟩ := decompresses zero
    exact ⟨w, decodeFn_of_decompressed zero ok length⟩

end Containers

/-- Settles O53: R64 holds of ENCODE's outputs by BC-VALID and suffices for DECODE; a zero size allows no Payload in R64, and any
in DECODE. -/
theorem wellFormedContainersDecode : Obligations.WellFormedContainersDecode := by
  refine ⟨fun _ _ _ => wellFormedContainer_of_encodeFn, fun _ _ => WellFormedContainer.decodes, fun c t => ?_⟩
  refine ⟨decodeFn_of_zero c t, fun bytes wellFormed => ?_⟩
  have zeroHeader : WellFormedContainer c (magic ++ le32Enc 0 ++ t) := wellFormed
  obtain ⟨-, ends⟩ := wellFormedContainer_header_iff.1 zeroHeader
  exact bytes (ends rfl)

end Sys2Proof.Machine

/-! PROOFS. What each phase does with a header (O25), and WAIT (O60). -/

namespace Sys2Proof.Machine

/-- Settles O25: the arms of `containerHdrStep`; what E3_HDR leaves in OUT is `State.putHeader_reads`. -/
theorem aHeaderIsWrittenAndRead : Obligations.AHeaderIsWrittenAndRead := by
  intro size s
  have arm : exec (.containerHdr size) s = containerHdrStep size s := rfl
  rw [arm, containerHdrStep]
  refine ⟨?e3Hdr, ?d1Magic, ?d2Size, ?s1Magic, ?elsewhere⟩
  case e3Hdr =>
    intro busy phase
    obtain ⟨-, -, header, rest⟩ := s.putHeader_reads size
    exact ⟨s.putHeader size, by rw [if_pos busy, phase], rfl, header, rest⟩
  case d1Magic =>
    intro busy phase
    rw [if_pos busy, phase]
  case d2Size | s1Magic =>
    intro busy phase
    rw [if_pos busy, phase]
    rfl
  case elsewhere =>
    intro elsewhere
    by_cases busy : s.busy = true
    · obtain ⟨notE3, notD1, notD2, notS1⟩ := elsewhere.resolve_left (by simp [busy])
      rw [if_pos busy]
      cases phase : s.phase with
      | e3Hdr => exact absurd phase notE3
      | d1Magic => exact absurd phase notD1
      | d2Size => exact absurd phase notD2
      | s1Magic => exact absurd phase notS1
      | idle | e1Size | e2Alloc | e4Empty | e5Comp | e5Wait | d3Empty | d4Decomp | d4Wait | done => rfl
    · rw [if_neg busy]

/-- Settles O60: one access reads STAT, and leaves itself at the head of the script unless DONE is 1. -/
theorem waitPollsStat : Obligations.WaitPollsStat := by
  intro s rest who next
  have script : (if s.done then [] else [HostOp.wait]) ++ rest = if s.done = true then rest else .wait :: rest := by
    split <;> rfl
  rw [step_of_host who next, ← script]
  rfl

end Sys2Proof.Machine

/-! PROOFS. The codes of the size field are inverse to each other (O1). -/

namespace Sys2Proof

/-- LE32_DEC undoes LE32_ENC (R92) where no byte follows the size field. -/
theorem sizeField_le32Enc (v : Word32) : sizeField (le32Enc v) = some v := sizeField_le32Enc_append v []

/-- Settles O1: one law of the size field for each direction. -/
theorem sizeFieldCodesAreInverse : Obligations.SizeFieldCodesAreInverse :=
  ⟨sizeField_le32Enc, le32Enc_le32Dec⟩

end Sys2Proof

/-! PROOFS. ENCODE phase by phase (O11 to O16): the equation of each phase, by its cases, and `exec` as the phase's function. -/

namespace Sys2Proof.Machine

section EncodePhases

variable {c : Config} {s : State}

/-! ## The phases by their cases -/

theorem e1Size_of_le (fits : s.n ≤ sizeMax) : e1Size s = s.goto .e2Alloc := by
  simp [e1Size, ovf, sizeFits, fits]

theorem e1Size_of_gt (tooLong : sizeMax < s.n) : e1Size s = s.raise .sizeOverflow := by
  simp [e1Size, ovf, sizeFits, tooLong]

theorem e4Empty_of_eq_zero (empty : s.n = 0) : e4Empty s = s.complete s.outPos := by
  simp [e4Empty, emptyIn, empty]

theorem e4Empty_of_ne_zero (nonempty : s.n ≠ 0) : e4Empty s = s.goto .e5Comp := by
  simp [e4Empty, emptyIn, nonempty]

theorem e5Wait_of_unanswered (noRsp : s.bcRsp.valid = false) : e5Wait s = s := by
  simp [e5Wait, noRsp]

theorem e5Wait_of_ok (answered : s.bcRsp.valid = true) (ok : s.bcRsp.fail = false) :
    e5Wait s = ({ s.consume with outPos := hdrLen + s.bcRsp.len } : State).complete (hdrLen + s.bcRsp.len) := by
  simp [e5Wait, bcFail, answered, ok]

theorem e5Wait_of_fail (answered : s.bcRsp.valid = true) (failed : s.bcRsp.fail = true) :
    e5Wait s = s.consume.raise (.compressionFailed s.bcRsp.errinfo) := by
  simp [e5Wait, bcFail, answered, failed]

/-! ## The step of each phase -/

theorem encodeStep_of_e1Size (busy : s.busy = true) (phase : s.phase = .e1Size) : encodeStep c s = .next (e1Size s) := by
  rw [encodeStep, if_pos busy, phase]

theorem encodeStep_of_e2Alloc (busy : s.busy = true) (phase : s.phase = .e2Alloc) :
    encodeStep c s = .next (e2Alloc c s) := by
  rw [encodeStep, if_pos busy, phase]

theorem encodeStep_of_e3Hdr (busy : s.busy = true) (phase : s.phase = .e3Hdr) : encodeStep c s = .next (e3Hdr s) := by
  rw [encodeStep, if_pos busy, phase]

theorem encodeStep_of_e4Empty (busy : s.busy = true) (phase : s.phase = .e4Empty) :
    encodeStep c s = .next (e4Empty s) := by
  rw [encodeStep, if_pos busy, phase]

theorem encodeStep_of_e5Comp (busy : s.busy = true) (phase : s.phase = .e5Comp) : encodeStep c s = .next (e5Comp s) := by
  rw [encodeStep, if_pos busy, phase]

theorem encodeStep_of_e5Wait (busy : s.busy = true) (phase : s.phase = .e5Wait) : encodeStep c s = .next (e5Wait s) := by
  rw [encodeStep, if_pos busy, phase]

end EncodePhases

/-- Settles O11: the two cases of E1_SIZE. -/
theorem e1SizeChecksTheLength : Obligations.E1SizeChecksTheLength := by
  intro s busy phase
  have step : exec .encode s = .next (e1Size s) := encodeStep_of_e1Size busy phase
  rw [step]
  exact ⟨fun fits => congrArg _ (e1Size_of_le fits), fun tooLong => congrArg _ (e1Size_of_gt tooLong)⟩

/-- Settles O12: E2_ALLOC has no cases. -/
theorem e2AllocSizesTheWindow : Obligations.E2AllocSizesTheWindow := fun _ => encodeStep_of_e2Alloc

/-- Settles O13: E3_HDR is `State.putHeader`, whose bytes `State.putHeader_reads` gives. -/
theorem e3HdrWritesTheHeader : Obligations.E3HdrWritesTheHeader := by
  intro s busy phase
  obtain ⟨magicRead, sizeRead, -, rest⟩ := s.putHeader_reads (trunc32 s.n)
  exact ⟨e3Hdr s, encodeStep_of_e3Hdr busy phase, rfl, magicRead, sizeRead, rest⟩

/-- Settles O14: the two cases of E4_EMPTY. -/
theorem e4EmptyEndsAnEmptyInput : Obligations.E4EmptyEndsAnEmptyInput := by
  intro s busy phase
  have step : exec .encode s = .next (e4Empty s) := encodeStep_of_e4Empty busy phase
  rw [step]
  exact ⟨fun empty => congrArg _ (e4Empty_of_eq_zero empty), fun nonempty => congrArg _ (e4Empty_of_ne_zero nonempty)⟩

/-- Settles O15: E5_COMP has no cases. -/
theorem e5CompPostsTheWholeInput : Obligations.E5CompPostsTheWholeInput := fun _ => encodeStep_of_e5Comp

/-- Settles O16: the three cases of E5_WAIT. -/
theorem e5WaitTakesTheAnswer : Obligations.E5WaitTakesTheAnswer := by
  intro s busy phase
  have step : exec .encode s = .next (e5Wait s) := encodeStep_of_e5Wait busy phase
  rw [step]
  exact ⟨fun noRsp => congrArg _ (e5Wait_of_unanswered noRsp), fun answered ok => congrArg _ (e5Wait_of_ok answered ok),
    fun answered failed => congrArg _ (e5Wait_of_fail answered failed)⟩

end Sys2Proof.Machine

/-! PROOFS. A header has the step of the command that writes or finds it (O26). -/

namespace Sys2Proof.Machine

section Headers

variable {s : State} {m : Memory} {n : Nat} {header : Bytes} {i : Instr}

theorem d1Magic_of_match (matched : magicMatch s.inp s.n = some true) :
    d1Magic s = .next { s with inPos := magicLen, phase := .d2Size } := by
  simp only [d1Magic, magicOk, matched]

theorem d2Size_of_present {size : Word32} (present : sizeIsPresent s = true) (below : hdrLen ≤ s.n)
    (field : sizeAt s.inp = some size) : d2Size s = .next (s.takeSize size) := by
  simp only [d2Size, present, (insideInput_size_iff s.n).2 below, field, if_true]

theorem s1Magic_of_match {b : Bool} (found : magicMatch s.inp s.n = some b) :
    s1Magic s = .next (({ s with matched := b } : State).complete 0) := by
  simp only [s1Magic, magicOk, found]

/-- Twelve bytes that decode are the header `headerAt` finds. -/
theorem headerAt_of_decode (below : hdrLen ≤ n) (read : m.readBytes 0 hdrLen = some header)
    (decoded : decode (.container header) = .ok i) : headerAt m n = some i := by
  simp only [headerAt, if_neg (Nat.not_lt.2 below), read, decoded]

/-- An input that begins with a header begins with Magic (R60). -/
theorem magicMatch_of_decode (below : hdrLen ≤ n) (read : m.readBytes 0 hdrLen = some header)
    (decoded : decode (.container header) = .ok i) : magicMatch m n = some true := by
  obtain ⟨size, payload, -, rfl⟩ := eq_header_of_decodeHeader decoded
  have magicRead : m.readBytes 0 magicLen = some magic := Memory.readBytes_sub read 0 magicLen (by decide)
  have long : ¬n < magicLen := Nat.not_lt.2 (le_trans (by decide) below)
  simp only [magicMatch, if_neg long, magicRead, decide_true]

end Headers

/-- Settles O26: at E3_HDR both steps are `State.putHeader`; where a header is read, `headerAt` and `magicMatch` find in IN what
the header declares. -/
theorem aHeaderStepIsTheCommandsStep : Obligations.AHeaderStepIsTheCommandsStep := by
  intro s busy
  have headerArm (size : Word32) : exec (.containerHdr size) s = containerHdrStep size s := rfl
  have decodeArm : exec .decode s = decodeStep s := rfl
  have sniffArm : exec .sniff s = sniffStep s := rfl
  refine ⟨fun phase => ?writes, fun header i below read decoded => ?finds⟩
  case writes =>
    have encodeArm : exec .encode s = .next (e3Hdr s) := encodeStep_of_e3Hdr busy phase
    rw [headerArm, encodeArm, containerHdrStep, if_pos busy, phase]
    rfl
  case finds =>
    have matched := magicMatch_of_decode below read decoded
    obtain ⟨size, rfl, field, -⟩ := headerAt_eq_some (headerAt_of_decode below read decoded)
    rw [headerArm, decodeArm, sniffArm, containerHdrStep, decodeStep, sniffStep, if_pos busy, if_pos busy, if_pos busy]
    refine ⟨fun phase => ?d1Magic, fun phase cursor => ?d2Size, fun phase => ?s1Magic⟩
    case d1Magic =>
      simp only [phase, d1Magic_of_match matched]
    case d2Size =>
      have present : sizeIsPresent s = true := by
        rw [sizeIsPresent, sizePresent, cursor, decide_eq_true_eq]
        exact Nat.le_sub_of_add_le below
      simp only [phase, d2Size_of_present present below field]
    case s1Magic =>
      simp only [phase, s1Magic_of_match matched]

end Sys2Proof.Machine

/-! PROOFS. What every instruction leaves unchanged (O27): the frame of each command's step, of the engine's and of a header's. -/

namespace Sys2Proof.Machine

section Frame

variable {c : Config} {s t : State}

/-- What no instruction changes: what the host writes, MAGIC_ROM and the model's own lists. -/
structure InstrFrame (s t : State) : Prop where
  cmd : t.cmd = s.cmd := by rfl
  inLen : t.inLen = s.inLen := by rfl
  rom : t.rom = s.rom := by rfl
  inp : t.inp = s.inp := by rfl
  turns : t.turns = s.turns := by rfl
  script : t.script = s.script := by rfl
  replies : t.replies = s.replies := by rfl

/-- What no command changes either, the header that ENCODE writes apart. -/
structure CommandFrame (s t : State) : Prop extends InstrFrame s t where
  fresh : t.fresh = s.fresh := by rfl
  out : t.out = s.out := by rfl

/-! ## ENCODE -/

theorem e1Size_frame (s : State) : CommandFrame s (e1Size s) := by
  unfold e1Size
  split
  · exact {}
  · exact {}

theorem e4Empty_frame (s : State) : CommandFrame s (e4Empty s) := by
  unfold e4Empty
  split
  · exact {}
  · exact {}

theorem e5Wait_frame (s : State) : CommandFrame s (e5Wait s) := by
  unfold e5Wait
  split
  · split
    · exact {}
    · exact {}
  · exact {}

/-- A step of ENCODE changes OUT at E3_HDR alone, where it writes the header. -/
theorem encodeStep_frame (h : encodeStep c s = .next t) :
    CommandFrame s t ∨ s.busy = true ∧ s.phase = .e3Hdr ∧ t = e3Hdr s := by
  unfold encodeStep at h
  split at h
  case isFalse => cases h; exact .inl {}
  case isTrue busy =>
    cases phase : s.phase <;> rw [phase] at h <;> cases h
    case e1Size => exact .inl (e1Size_frame s)
    case e2Alloc => exact .inl {}
    case e3Hdr => exact .inr ⟨busy, rfl, rfl⟩
    case e4Empty => exact .inl (e4Empty_frame s)
    case e5Comp => exact .inl {}
    case e5Wait => exact .inl (e5Wait_frame s)
    all_goals exact .inl {}

/-! ## NOP, DECODE and SNIFF -/

theorem nopStep_frame (h : nopStep s = .next t) : CommandFrame s t := by
  unfold nopStep at h
  split at h
  · cases h; exact {}
  · cases h; exact {}

theorem d1Magic_frame (h : d1Magic s = .next t) : CommandFrame s t := by
  unfold d1Magic at h
  split at h
  · cases h
  · cases h; exact {}
  · cases h; exact {}

theorem d2Size_frame (h : d2Size s = .next t) : CommandFrame s t := by
  unfold d2Size at h
  repeat' split at h
  all_goals cases h
  all_goals exact {}

theorem d3Empty_frame (s : State) : CommandFrame s (d3Empty s) := by
  unfold d3Empty
  split
  · exact {}
  · exact {}

theorem d4Wait_frame (s : State) : CommandFrame s (d4Wait s) := by
  unfold d4Wait
  repeat' split
  all_goals exact {}

theorem decodeStep_frame (h : decodeStep s = .next t) : CommandFrame s t := by
  unfold decodeStep at h
  split at h
  case isFalse => cases h; exact {}
  case isTrue =>
    cases phase : s.phase <;> rw [phase] at h
    case d1Magic => exact d1Magic_frame h
    case d2Size => exact d2Size_frame h
    case d3Empty => cases h; exact d3Empty_frame s
    case d4Wait => cases h; exact d4Wait_frame s
    all_goals cases h; exact {}

theorem s1Magic_frame (h : s1Magic s = .next t) : CommandFrame s t := by
  unfold s1Magic at h
  split at h
  · cases h
  · cases h; exact {}

theorem sniffStep_frame (h : sniffStep s = .next t) : CommandFrame s t := by
  unfold sniffStep at h
  split at h
  case isFalse => cases h; exact {}
  case isTrue =>
    cases phase : s.phase <;> rw [phase] at h
    case s1Magic => exact s1Magic_frame h
    all_goals cases h; exact {}

/-! ## The engine and the header -/

/-- What the engine leaves alone: every register, and OUT outside the destination window (R152). -/
structure EngineFrame (s t : State) : Prop where
  registers : t = { s with out := t.out, bcRsp := t.bcRsp, fresh := t.fresh }
  out : ∀ a, a < s.bcReq.dstOff ∨ s.bcReq.dstOff + s.bcReq.dstCap ≤ a → t.out.read a = s.out.read a

theorem EngineFrame.instrFrame (frame : EngineFrame s t) : InstrFrame s t := by
  rw [frame.registers]
  exact {}

theorem State.answer_frame (s : State) {a : Answer} (fits : ∀ w, a = .ok w → w.length ≤ s.bcReq.dstCap) :
    EngineFrame s (s.answer c a) where
  registers := by cases a <;> rfl
  out := s.answer_outside c a fits

/-- The laws BC-FIT (R149, R153) keep the engine's step inside its window. -/
theorem engineStep_frame {f : Bytes → Nat → Answer} (law : ∀ src cap w, f src cap = .ok w → w.length ≤ cap)
    (h : engineStep c f s = .next t) : EngineFrame s t := by
  unfold engineStep at h
  repeat' split at h
  all_goals cases h
  case h_2 src _ => exact s.answer_frame fun w => law src s.bcReq.dstCap w
  case isFalse => exact ⟨rfl, fun _ _ => rfl⟩

/-- What a header leaves alone: the port, and OUT but for its own 12 bytes at E3_HDR. -/
structure HeaderFrame (s t : State) : Prop extends InstrFrame s t where
  cmdL : t.cmdL = s.cmdL := by rfl
  n : t.n = s.n := by rfl
  cap : t.cap = s.cap := by rfl
  bcReq : t.bcReq = s.bcReq := by rfl
  bcRsp : t.bcRsp = s.bcRsp := by rfl
  fresh : t.fresh = s.fresh := by rfl
  out : s.phase ≠ .e3Hdr → t.out = s.out := by exact fun _ => rfl
  payload : ∀ a, 12 ≤ a → t.out.read a = s.out.read a := by exact fun _ _ => rfl

theorem State.putHeader_frame (s : State) (phase : s.phase = .e3Hdr) (size : Word32) : HeaderFrame s (s.putHeader size) :=
  have ⟨_, _, _, payload⟩ := s.putHeader_reads size
  { out := fun elsewhere => absurd phase elsewhere
    payload := payload }

theorem containerHdrStep_frame {size : Word32} (h : containerHdrStep size s = .next t) : HeaderFrame s t := by
  unfold containerHdrStep at h
  split at h
  case isFalse => cases h
  case isTrue =>
    cases phase : s.phase <;> rw [phase] at h <;> cases h
    case e3Hdr => exact s.putHeader_frame phase size
    case d1Magic | d2Size | s1Magic => exact {}

/-! ## Every instruction -/

theorem compress_frame (h : exec .compress s = .next t) : EngineFrame s t := engineStep_frame Config.hw.compress_fits h

theorem decompress_frame (h : exec .decompress s = .next t) : EngineFrame s t := engineStep_frame Config.hw.decompress_fits h

theorem exec_frame {i : Instr} (h : exec i s = .next t) : InstrFrame s t := by
  cases i with
  | nop => exact (nopStep_frame h).toInstrFrame
  | encode =>
    obtain frame | ⟨-, -, rfl⟩ := encodeStep_frame h
    · exact frame.toInstrFrame
    · exact {}
  | decode => exact (decodeStep_frame h).toInstrFrame
  | sniff => exact (sniffStep_frame h).toInstrFrame
  | compress => exact (compress_frame h).instrFrame
  | decompress => exact (decompress_frame h).instrFrame
  | containerHdr size => exact (containerHdrStep_frame h).toInstrFrame

/-- NOP, DECODE and SNIFF change no byte of OUT, and neither does ENCODE outside E3_HDR. -/
theorem CommandFrame.keeps_out (frame : CommandFrame s t) : t.fresh = s.fresh ∧ ∀ a, t.out.read a = s.out.read a :=
  ⟨frame.fresh, fun a => congrArg (Memory.read · a) frame.out⟩

end Frame

/-- Settles O27: what no instruction changes is `exec_frame`; each further clause is the frame of the step it names. -/
theorem frameOfEveryInstruction : Obligations.FrameOfEveryInstruction := by
  intro i s t h
  have frame := exec_frame h
  refine ⟨frame.cmd, frame.inLen, frame.rom, fun a => congrArg (Memory.read · a) frame.inp, frame.turns, frame.script,
    frame.replies, ?commands, ?encode, ?engine, ?header⟩
  case commands =>
    rintro (rfl | rfl | rfl)
    · exact (nopStep_frame h).keeps_out
    · exact (decodeStep_frame h).keeps_out
    · exact (sniffStep_frame h).keeps_out
  case encode =>
    rintro rfl
    obtain kept | ⟨busy, phase, rfl⟩ := encodeStep_frame h
    · obtain ⟨fresh, out⟩ := kept.keeps_out
      exact ⟨fresh, fun a _ => out a, fun _ => out⟩
    · obtain ⟨-, -, -, rest⟩ := s.putHeader_reads (trunc32 s.n)
      exact ⟨rfl, rest, fun elsewhere => absurd ⟨busy, phase⟩ elsewhere⟩
  case engine =>
    rintro (rfl | rfl)
    · exact ⟨(compress_frame h).registers, (compress_frame h).out⟩
    · exact ⟨(decompress_frame h).registers, (decompress_frame h).out⟩
  case header =>
    rintro size rfl
    have kept : HeaderFrame s t := containerHdrStep_frame h
    exact ⟨kept.cmdL, kept.n, kept.cap, kept.bcReq, kept.bcRsp, kept.fresh, kept.payload,
      fun elsewhere a => congrArg (Memory.read · a) (kept.out elsewhere)⟩

end Sys2Proof.Machine

/-! PROOFS. A run of ENCODE computes ENCODE(d) (O40): what a running command keeps whatever the host does meanwhile, what each
phase of ENCODE adds to it, and that every step goes on from one phase's fact to the next one's. -/

namespace Sys2Proof.Machine

section EncodeRuns

variable {c : Config} {m : Memory} {n : Nat} {s t u : State}

/-! ## Runs and running commands -/

/-- What every step of a busy framer keeps holds at the end of a run. -/
theorem EndsAfter.keeps {k : Nat} {P : State → Prop} (h : EndsAfter c k u t) (start : P u)
    (step_keeps : ∀ s t, P s → s.busy = true → stepWith c s = .next t → P t) : P t := by
  obtain ⟨run, -, busy⟩ := h
  induction k generalizing t with
  | zero => cases run; exact start
  | succ k ih =>
    obtain ⟨v, run_v, step⟩ := runWith_of_succ c k u t run
    obtain ⟨w, run_w, w_busy⟩ := busy k (Nat.lt_succ_self k)
    obtain rfl : v = w := Host.Outcome.next.inj (run_v.symm.trans run_w)
    exact step_keeps v t (ih run_v fun j hj => busy j (Nat.lt_succ_of_lt hj)) w_busy step

/-- A command runs on the input `IN[0..n)` of `m`: N and IN are as START left them, the result registers are clear (R172), and the
port is quiet but in a wait phase (R155). -/
structure RunsOn (m : Memory) (n : Nat) (s : State) : Prop where
  inp : s.inp = m
  n : s.n = n
  cleared : Cleared s
  port : s.phase.waits = false → PortQuiet s

theorem RunsOn.launch (s : State) (code : BitVec 2) (first : Phase) : RunsOn s.inp s.inLen (s.launch code first) :=
  ⟨rfl, rfl, ⟨rfl, rfl, rfl, rfl, rfl, rfl⟩, fun _ => ⟨rfl, rfl⟩⟩

theorem RunsOn.takeTurn (on : RunsOn m n s) : RunsOn m n s.takeTurn :=
  { on with cleared := { on.cleared with }, port := fun noWait => { on.port noWait with } }

/-- The host changes nothing a running command rests on. -/
theorem RunsOn.host (on : RunsOn m n s) (cmd : Word32) (inLen : Nat) (script : List HostOp) (replies : List Nat) :
    RunsOn m n { s with cmd := cmd, inLen := inLen, script := script, replies := replies } :=
  { on with cleared := { on.cleared with }, port := fun noWait => { on.port noWait with } }

/-- What the host reads after the success completion (R170, R173). -/
theorem observe_complete (cleared : Cleared s) {w : Bytes} (written : s.out.readBytes 0 w.length = some w) :
    observe (s.complete w.length) = observedResult (.ok w) := by
  obtain ⟨-, matched, -, expected, actual, errinfo⟩ := cleared
  simp [observe, observedResult, exposedOutput, matched, expected, actual, errinfo, written]

/-- What the host reads after the failure completion (R206, R173). -/
theorem observe_raise (cleared : Cleared s) (k : ErrorKind) : observe (s.raise k) = observedResult (.err k) := by
  obtain ⟨-, matched, -, expected, actual, errinfo⟩ := cleared
  simp [observe, observedResult, exposedOutput, matched, expected, actual, errinfo]

/-! ## ENCODE as a function, by its cases -/

theorem encodeFn_of_gt {d : Bytes} (tooLong : sizeMax < d.length) : encodeFn c d = .err .sizeOverflow := if_pos tooLong

theorem encodeFn_nil (c : Config) : encodeFn c [] = .ok (headerBytes 0) := rfl

theorem encodeFn_of_ok {d w : Bytes} (fits : d.length ≤ sizeMax) (nonempty : d.length ≠ 0)
    (ok : c.compressBlock d (c.compressBound d.length) = .ok w) : encodeFn c d = .ok (headerBytes d.length ++ w) := by
  simp only [encodeFn, if_neg (Nat.not_lt.2 fits), if_neg nonempty, ok]

theorem encodeFn_of_fail {d : Bytes} {e : Nat} (fits : d.length ≤ sizeMax) (nonempty : d.length ≠ 0)
    (fail : c.compressBlock d (c.compressBound d.length) = .fail e) : encodeFn c d = .err (.compressionFailed e) := by
  simp only [encodeFn, if_neg (Nat.not_lt.2 fits), if_neg nonempty, fail]

/-! ## What each phase of ENCODE knows -/

/-- The answer `a` stands on the port: in the response and, where it is a success, at the head of the window (R152). -/
def AnswerStands (s : State) : Answer → Prop
  | .ok w => s.bcRsp.fail = false ∧ s.bcRsp.len = w.length ∧ s.out.readBytes s.bcReq.dstOff w.length = some w
  | .fail e => s.bcRsp.fail = true ∧ s.bcRsp.errinfo = e

theorem State.answer_stands (s : State) (c : Config) (a : Answer) : AnswerStands (s.answer c a) a := by
  cases a with
  | ok w => exact ⟨rfl, rfl, s.answer_ok_reads c w⟩
  | fail e => exact ⟨rfl, rfl⟩

/-- OUT begins with the header of a Container of `n` bytes (R103). -/
def HeaderStands (n : Nat) (s : State) : Prop := s.out.readBytes 0 hdrLen = some (headerBytes n)

/-- What a running ENCODE has established in the phase it is in; the phases of the other commands are none of its own. -/
def EncodeAt (c : Config) (m : Memory) (n : Nat) (s : State) : Prop :=
  match s.phase with
  | .e1Size => True
  | .e2Alloc => n ≤ sizeMax
  | .e3Hdr => n ≤ sizeMax ∧ s.cap = hdrLen + c.compressBound n
  | .e4Empty => n ≤ sizeMax ∧ s.cap = hdrLen + c.compressBound n ∧ HeaderStands n s ∧ s.outPos = hdrLen
  | .e5Comp => n ≤ sizeMax ∧ s.cap = hdrLen + c.compressBound n ∧ HeaderStands n s ∧ n ≠ 0
  | .e5Wait => n ≤ sizeMax ∧ s.bcReq = ⟨true, 0, 0, n, hdrLen, c.compressBound n⟩ ∧ HeaderStands n s ∧ n ≠ 0 ∧
      (s.bcRsp.valid = true →
        ∃ d, m.readBytes 0 n = some d ∧ AnswerStands s (c.compressBlock d (c.compressBound n)))
  | .idle | .d1Magic | .d2Size | .d3Empty | .d4Decomp | .d4Wait | .s1Magic | .done => False

/-- What the host observes where ENCODE ends on `IN[0..n)` of `m` (R107): SizeOverflow, bytes or no bytes (R101), or ENCODE(d). -/
inductive EncodeEnd (c : Config) (m : Memory) (n : Nat) (o : Observed) : Prop where
  | tooLong (h : sizeMax < n) (eq : o = observedResult (.err .sizeOverflow))
  | computed (d : Bytes) (read : m.readBytes 0 n = some d) (eq : o = observedResult (encodeFn c d))

/-- ENCODE from START on: it runs, or the framer has become idle, with the result of ENCODE unless the host has reset it. -/
inductive EncodeRun (c : Config) (m : Memory) (n : Nat) (s : State) : Prop where
  | runs (on : RunsOn m n s) (stage : EncodeAt c m n s)
  | ended (idle : s.busy = false) (result : s.phase = .done → EncodeEnd c m n (observe s))

/-! ## The steps of the sequencer -/

theorem RunsOn.after_e1Size (on : RunsOn m n s) (p : s.phase = .e1Size) : EncodeRun c m n (e1Size s) := by
  obtain rfl := on.n
  have quiet := on.port (by rw [p]; rfl)
  by_cases fits : s.n ≤ sizeMax
  · rw [e1Size_of_le fits]
    exact .runs { on with cleared := { on.cleared with }, port := fun _ => { quiet with } } fits
  · have tooLong := Nat.not_le.1 fits
    rw [e1Size_of_gt tooLong]
    exact .ended rfl fun _ => .tooLong tooLong (observe_raise on.cleared _)

theorem RunsOn.after_e2Alloc (on : RunsOn m n s) (stage : EncodeAt c m n s) (p : s.phase = .e2Alloc) :
    EncodeRun c m n (e2Alloc c s) := by
  obtain rfl := on.n
  have quiet := on.port (by rw [p]; rfl)
  simp only [EncodeAt, p] at stage
  exact .runs { on with cleared := { on.cleared with }, port := fun _ => { quiet with } } ⟨stage, rfl⟩

theorem RunsOn.after_e3Hdr (on : RunsOn m n s) (stage : EncodeAt c m n s) (p : s.phase = .e3Hdr) :
    EncodeRun c m n (e3Hdr s) := by
  obtain rfl := on.n
  have quiet := on.port (by rw [p]; rfl)
  simp only [EncodeAt, p] at stage
  obtain ⟨fits, cap⟩ := stage
  obtain ⟨-, -, header, -⟩ := s.putHeader_reads (trunc32 s.n)
  exact .runs { on with cleared := { on.cleared with }, port := fun _ => { quiet with } } ⟨fits, cap, header, rfl⟩

theorem RunsOn.after_e4Empty (on : RunsOn m n s) (stage : EncodeAt c m n s) (p : s.phase = .e4Empty) :
    EncodeRun c m n (e4Empty s) := by
  obtain rfl := on.n
  have quiet := on.port (by rw [p]; rfl)
  simp only [EncodeAt, p] at stage
  obtain ⟨fits, cap, header, outPos⟩ := stage
  by_cases empty : s.n = 0
  · rw [e4Empty_of_eq_zero empty, outPos]
    rw [empty] at header ⊢
    refine .ended rfl fun _ => .computed [] rfl ?_
    rw [encodeFn_nil]
    exact observe_complete on.cleared (w := headerBytes 0) header
  · rw [e4Empty_of_ne_zero empty]
    exact .runs { on with cleared := { on.cleared with }, port := fun _ => { quiet with } } ⟨fits, cap, header, empty⟩

/-- The request is for the whole input and for what CAP leaves after the header (R105). -/
theorem RunsOn.after_e5Comp (on : RunsOn m n s) (stage : EncodeAt c m n s) (p : s.phase = .e5Comp) :
    EncodeRun c m n (e5Comp s) := by
  obtain rfl := on.n
  have quiet := on.port (by rw [p]; rfl)
  simp only [EncodeAt, p] at stage
  obtain ⟨fits, cap, header, nonempty⟩ := stage
  have request : compressRequest s = ⟨true, 0, 0, s.n, hdrLen, c.compressBound s.n⟩ := by
    rw [compressRequest, cap, Nat.add_sub_cancel_left]
  have unanswered : (e5Comp s).bcRsp.valid ≠ true := by simp [e5Comp, quiet.rsp]
  exact .runs { on with cleared := { on.cleared with }, port := nofun }
    ⟨fits, request, header, nonempty, fun answered => absurd answered unanswered⟩

/-- The header and the payload behind it are one output, the one of ENCODE(d) (R106). -/
theorem RunsOn.after_e5Wait (on : RunsOn m n s) (stage : EncodeAt c m n s) (p : s.phase = .e5Wait)
    (answered : s.bcRsp.valid = true) : EncodeRun c m n (e5Wait s) := by
  simp only [EncodeAt, p] at stage
  obtain ⟨fits, request, header, nonempty, answer⟩ := stage
  obtain ⟨d, read, stands⟩ := answer answered
  obtain ⟨rfl, -⟩ := (Memory.readBytes_eq_some_iff _ _ _ _).1 read
  have cleared : Cleared s.consume := { on.cleared with }
  cases result : c.compressBlock d (c.compressBound d.length) with
  | ok w =>
    rw [result] at stands
    obtain ⟨ok, len, payload⟩ := stands
    rw [request] at payload
    rw [e5Wait_of_ok answered ok, len]
    have output : s.out.readBytes 0 (headerBytes d.length ++ w).length = some (headerBytes d.length ++ w) := by
      rw [List.length_append]
      exact Memory.readBytes_append header payload
    have cleared' : Cleared { s.consume with outPos := hdrLen + w.length } := { cleared with }
    refine .ended rfl fun _ => .computed d read ?_
    rw [encodeFn_of_ok fits nonempty result, ← observe_complete cleared' output, List.length_append]
    rfl
  | fail e =>
    rw [result] at stands
    obtain ⟨failed, errinfo⟩ := stands
    rw [e5Wait_of_fail answered failed, errinfo]
    refine .ended rfl fun _ => .computed d read ?_
    rw [encodeFn_of_fail fits nonempty result, observe_raise cleared]

theorem FramerMove.keeps_encodeRun (on : RunsOn m n s) (stage : EncodeAt c m n s) (move : FramerMove c s t) :
    EncodeRun c m n t := by
  cases move with
  | e1 p eq => exact eq ▸ on.after_e1Size p
  | e2 p eq => exact eq ▸ on.after_e2Alloc stage p
  | e3 p eq => exact eq ▸ on.after_e3Hdr stage p
  | e4 p eq => exact eq ▸ on.after_e4Empty stage p
  | e5c p eq => exact eq ▸ on.after_e5Comp stage p
  | e5w p answered eq => exact eq ▸ on.after_e5Wait stage p answered
  | d1Bad p | d1Good p | d2Short p | d2Present p | d3 p | d4c p | d4w p | s1 p =>
    rw [EncodeAt, p] at stage
    exact stage.elim

/-! ## The steps of the engine and the host -/

/-- An answer of the engine leaves the command's own registers alone. -/
theorem RunsOn.answer (on : RunsOn m n s) (waits : s.phase.waits = true) (a : Answer) : RunsOn m n (s.answer c a) := by
  have noQuiet : s.phase.waits = false → PortQuiet (s.answer c a) := fun noWait => by rw [waits] at noWait; cases noWait
  cases a with
  | ok w => exact { on with cleared := { on.cleared with }, port := noQuiet }
  | fail e => exact { on with cleared := { on.cleared with }, port := noQuiet }

/-- While ENCODE runs, the engine answers its compression of the whole input, and the window lies behind the header. -/
theorem EncodeAt.answer (on : RunsOn m n s) (stage : EncodeAt c m n s) (ready : engineReady s = true) {src : Bytes}
    (read : sourceBytes s = some src) : EncodeRun c m n (s.answer c (engineFunction c s src s.bcReq.dstCap)) := by
  have outstanding : s.bcReq.valid = true := by
    simp only [engineReady, Bool.and_eq_true] at ready
    exact ready.1
  have waits : s.phase.waits = true := by
    by_contra noWait
    have quiet := on.port (Bool.eq_false_iff.2 noWait)
    exact Bool.false_ne_true (quiet.req.symm.trans outstanding)
  obtain p | p := (Phase.waits_iff _).1 waits
  case inr => rw [EncodeAt, p] at stage; exact stage.elim
  rw [EncodeAt, p] at stage
  obtain ⟨fits, request, header, nonempty, -⟩ := stage
  have source : m.readBytes 0 n = some src := by rw [← read, sourceBytes, request, on.inp]
  have compresses : engineFunction c s src s.bcReq.dstCap = c.compressBlock src (c.compressBound n) := by
    rw [engineFunction, request, if_pos rfl]
  have inWindow (w : Bytes) (ok : engineFunction c s src s.bcReq.dstCap = .ok w) : w.length ≤ s.bcReq.dstCap :=
    engineFunction_ok_length ok
  have header' : HeaderStands n (s.answer c (engineFunction c s src s.bcReq.dstCap)) := by
    rw [HeaderStands, ← header]
    refine Memory.readBytes_congr fun i _ below => s.answer_outside c _ inWindow i (.inl ?_)
    rw [request]
    omega
  refine .runs (on.answer waits _) ?_
  rw [EncodeAt, State.answer_phase, p]
  refine ⟨fits, (s.answer_bcReq c _).trans request, header', nonempty, fun _ => ⟨src, source, ?_⟩⟩
  rw [← compresses]
  exact s.answer_stands c _

/-- While BUSY the host changes nothing ENCODE rests on, or it resets the framer (R165, R232). -/
theorem HostMove.keeps_encodeRun (on : RunsOn m n s) (stage : EncodeAt c m n s) (busy : s.busy = true)
    (move : HostMove c s t) : EncodeRun c m n t := by
  cases move with
  | quiet script replies eq => exact eq ▸ .runs (on.host s.cmd s.inLen script replies) stage
  | cmd code eq => exact eq ▸ .runs (on.host (code.setWidth 32) s.inLen s.script s.replies) stage
  | inLen v fits eq => exact eq ▸ .runs (on.host s.cmd v s.script s.replies) stage
  | inByte idle | start idle => rw [busy] at idle; cases idle
  | reset eq => exact eq ▸ .ended rfl nofun

/-! ## The run -/

theorem EncodeRun.step (run : EncodeRun c m n s) (busy : s.busy = true) (step : stepWith c s = .next t) :
    EncodeRun c m n t := by
  cases run with
  | ended idle => rw [busy] at idle; cases idle
  | runs on stage =>
    cases step_moves step with
    | framer who ready move => exact move.keeps_encodeRun on.takeTurn stage
    | engine who ready inside src read eq => exact eq ▸ EncodeAt.answer on.takeTurn stage ready read
    | host who op rest next move =>
      exact move.keeps_encodeRun (on.takeTurn.host s.cmd s.inLen rest s.replies) stage busy
    | idle who idle => rw [busy] at idle; cases idle

/-- START begins a run of ENCODE on IN_LEN bytes of IN (R166, R168). -/
theorem encodeRun_of_start (idle : s.busy = false) (start : execWith c .encode s = .next u) :
    EncodeRun c s.inp s.inLen u := by
  have launched : execWith c .encode s = .next (s.launch 1 .e1Size) := if_neg (by simp [idle])
  obtain rfl := Host.Outcome.next.inj (start.symm.trans launched)
  exact .runs (RunsOn.launch s 1 .e1Size) trivial

/-- A run of ENCODE that ends has a result of ENCODE. -/
theorem encodeEnd_of_endsAfter {k : Nat} (idle : s.busy = false) (start : execWith c .encode s = .next u)
    (ends : EndsAfter c k u t) : EncodeEnd c s.inp s.inLen (observe t) := by
  have done : t.phase = .done := ends.2.1
  have run : EncodeRun c s.inp s.inLen t :=
    ends.keeps (encodeRun_of_start idle start) fun _ _ => EncodeRun.step
  cases run with
  | runs on stage => rw [EncodeAt, done] at stage; exact stage.elim
  | ended _ result => exact result done

end EncodeRuns

/-- Settles O40: `EncodeRun` holds from START on and gives the result at the end; a length above SIZE_MAX has one result. -/
theorem aRunOfEncodeComputesEncode : Obligations.ARunOfEncodeComputesEncode := by
  intro c s u t k idle start ends
  have result := encodeEnd_of_endsAfter idle start ends
  refine ⟨fun d length read => ?input, fun tooLong => ?overflow⟩
  case input =>
    rw [length] at result
    cases result with
    | tooLong h eq => rw [eq, encodeFn_of_gt h]
    | computed d' read' eq =>
      obtain rfl := Option.some.inj (read.symm.trans read')
      exact eq
  case overflow =>
    cases result with
    | tooLong h eq => exact eq
    | computed d read eq =>
      obtain ⟨length, -⟩ := (Memory.readBytes_eq_some_iff _ _ _ _).1 read
      rw [eq, encodeFn_of_gt (length ▸ tooLong)]

end Sys2Proof.Machine

/-! PROOFS. DECODE phase by phase (O17 to O21): the equation of each phase, by its cases, and `exec` as the phase's function. -/

namespace Sys2Proof

/-- The sum of LE32_DEC (R91) fits 32 bits. -/
theorem toNat_le32Dec (b0 b1 b2 b3 : Byte) :
    (le32Dec b0 b1 b2 b3).toNat = b0.toNat + 2 ^ 8 * b1.toNat + 2 ^ 16 * b2.toNat + 2 ^ 24 * b3.toNat := by
  have h0 := b0.isLt
  have h1 := b1.isLt
  have h2 := b2.isLt
  have h3 := b3.isLt
  rw [le32Dec, BitVec.toNat_ofNat]
  omega

end Sys2Proof

namespace Sys2Proof.Machine

section DecodePhases

variable {s : State} {m : Memory} {n : Nat}

/-! ## The tests on the input -/

theorem magicMatch_of_lt (short : n < magicLen) : magicMatch m n = some false := if_pos short

theorem magicMatch_of_read {b : Bytes} (long : magicLen ≤ n) (read : m.readBytes 0 magicLen = some b) :
    magicMatch m n = some (decide (b = magic)) := by
  simp only [magicMatch, if_neg (Nat.not_lt.2 long), read]

theorem sizeIsPresent_iff (s : State) : sizeIsPresent s = true ↔ sizeLen ≤ s.n - s.inPos := decide_eq_true_iff

theorem sizeIsPresent_eq_false_iff (s : State) : sizeIsPresent s = false ↔ s.n - s.inPos < sizeLen := by
  rw [← Bool.not_eq_true, sizeIsPresent_iff, Nat.not_le]

/-! ## The phases by their cases -/

theorem d1Magic_of_mismatch (differs : magicMatch s.inp s.n = some false) :
    d1Magic s = .next (s.raise .invalidFormat) := by
  simp only [d1Magic, magicOk, differs]

theorem d2Size_of_absent (absent : sizeIsPresent s = false) : d2Size s = .next (s.raise .invalidFormat) := by
  rw [d2Size, absent, if_neg Bool.false_ne_true]

theorem d3Empty_of_eq_zero (zero : s.size = 0) : d3Empty s = s.complete 0 := if_pos (decide_eq_true zero)

theorem d3Empty_of_ne_zero (nonzero : s.size ≠ 0) : d3Empty s = s.goto .d4Decomp :=
  if_neg fun zero => nonzero (of_decide_eq_true zero)

theorem d4Wait_of_unanswered (noRsp : s.bcRsp.valid = false) : d4Wait s = s := by
  simp [d4Wait, noRsp]

theorem d4Wait_of_fail (answered : s.bcRsp.valid = true) (failed : s.bcRsp.fail = true) :
    d4Wait s = s.consume.raise (.decompressionFailed s.bcRsp.errinfo) := by
  simp [d4Wait, bcFail, answered, failed]

theorem d4Wait_of_mismatch (answered : s.bcRsp.valid = true) (ok : s.bcRsp.fail = false)
    (differs : s.bcRsp.len ≠ s.size.toNat) : d4Wait s = s.consume.raise (.sizeMismatch s.size s.bcRsp.len) := by
  simp [d4Wait, bcFail, lenEq, answered, ok, differs]

theorem d4Wait_of_ok (answered : s.bcRsp.valid = true) (ok : s.bcRsp.fail = false) (len : s.bcRsp.len = s.size.toNat) :
    d4Wait s = s.consume.complete s.size.toNat := by
  simp [d4Wait, bcFail, lenEq, answered, ok, len]

/-! ## The step of each phase -/

theorem decodeStep_of_d1Magic (busy : s.busy = true) (phase : s.phase = .d1Magic) : decodeStep s = d1Magic s := by
  rw [decodeStep, if_pos busy, phase]

theorem decodeStep_of_d2Size (busy : s.busy = true) (phase : s.phase = .d2Size) : decodeStep s = d2Size s := by
  rw [decodeStep, if_pos busy, phase]

theorem decodeStep_of_d3Empty (busy : s.busy = true) (phase : s.phase = .d3Empty) : decodeStep s = .next (d3Empty s) := by
  rw [decodeStep, if_pos busy, phase]

theorem decodeStep_of_d4Decomp (busy : s.busy = true) (phase : s.phase = .d4Decomp) :
    decodeStep s = .next (d4Decomp s) := by
  rw [decodeStep, if_pos busy, phase]

theorem decodeStep_of_d4Wait (busy : s.busy = true) (phase : s.phase = .d4Wait) : decodeStep s = .next (d4Wait s) := by
  rw [decodeStep, if_pos busy, phase]

end DecodePhases

/-- Settles O17: the two values of MAGIC_OK; fewer than 8 bytes give 0 (R86). -/
theorem d1MagicStripsTheMagic : Obligations.D1MagicStripsTheMagic := by
  intro s busy phase
  have step : exec .decode s = d1Magic s := decodeStep_of_d1Magic busy phase
  rw [step]
  refine ⟨fun short => d1Magic_of_mismatch (magicMatch_of_lt short), fun b long read => ?_⟩
  have found : magicMatch s.inp s.n = some (decide (b = magic)) := magicMatch_of_read long read
  exact ⟨fun differs => d1Magic_of_mismatch (found.trans (congrArg some (decide_eq_false differs))),
    fun matched => d1Magic_of_match (found.trans (congrArg some (decide_eq_true matched)))⟩

/-- Settles O18: the two values of SIZE_PRESENT; the size taken is LE32_DEC of the four bytes, `toNat_le32Dec`. -/
theorem d2SizeTakesTheSize : Obligations.D2SizeTakesTheSize := by
  intro s busy phase
  have step : exec .decode s = d2Size s := decodeStep_of_d2Size busy phase
  rw [step]
  refine ⟨fun few => d2Size_of_absent ((sizeIsPresent_eq_false_iff s).2 few), fun b0 b1 b2 b3 enough below read => ?_⟩
  have field : sizeAt s.inp = some (le32Dec b0 b1 b2 b3) := by
    rw [sizeAt, read]
    rfl
  exact ⟨le32Dec b0 b1 b2 b3, toNat_le32Dec b0 b1 b2 b3, d2Size_of_present ((sizeIsPresent_iff s).2 enough) below field⟩

/-- Settles O19: the two cases of D3_EMPTY. -/
theorem d3EmptyEndsAZeroSize : Obligations.D3EmptyEndsAZeroSize := by
  intro s busy phase
  have step : exec .decode s = .next (d3Empty s) := decodeStep_of_d3Empty busy phase
  rw [step]
  exact ⟨fun zero => congrArg _ (d3Empty_of_eq_zero zero), fun nonzero => congrArg _ (d3Empty_of_ne_zero nonzero)⟩

/-- Settles O20: D4_DECOMP has no cases. -/
theorem d4DecompPostsThePayload : Obligations.D4DecompPostsThePayload := fun _ => decodeStep_of_d4Decomp

/-- Settles O21: the four cases of D4_WAIT. -/
theorem d4WaitTakesTheAnswer : Obligations.D4WaitTakesTheAnswer := by
  intro s busy phase
  have step : exec .decode s = .next (d4Wait s) := decodeStep_of_d4Wait busy phase
  rw [step]
  exact ⟨fun noRsp => congrArg _ (d4Wait_of_unanswered noRsp),
    fun answered failed => congrArg _ (d4Wait_of_fail answered failed),
    fun answered ok differs => congrArg _ (d4Wait_of_mismatch answered ok differs),
    fun answered ok len => congrArg _ (d4Wait_of_ok answered ok len)⟩

end Sys2Proof.Machine

/-! PROOFS. A run of DECODE computes DECODE(b) (O41): how any command's run goes on from step to step, what each phase of DECODE
knows of the input, and that the last phase's fact gives the result. -/

namespace Sys2Proof.Machine

/-! ## Runs of any command -/

section CommandRuns

variable {c : Config} {At : State → Prop} {m : Memory} {n : Nat} {o : Observed} {s t u : State}

/-- A command from START on, `At` being what it knows in each phase: it runs, or the framer has become idle, with the result `o`
unless the host has reset it. -/
inductive CommandRun (At : State → Prop) (m : Memory) (n : Nat) (o : Observed) (s : State) : Prop where
  | runs (on : RunsOn m n s) (stage : At s)
  | ended (idle : s.busy = false) (result : s.phase = .done → observe s = o)

/-- What a command knows in each phase leads to the result `o`: the framer's steps go on to the next phase's fact or end with `o`,
and the engine and the host do not disturb it. -/
structure StagesLeadTo (c : Config) (At : State → Prop) (m : Memory) (n : Nat) (o : Observed) : Prop where
  notDone : ∀ s, At s → s.phase ≠ .done
  framer : ∀ s t, RunsOn m n s → At s → FramerMove c s t → CommandRun At m n o t
  engine : ∀ s src, RunsOn m n s → At s → s.phase.waits = true → sourceBytes s = some src →
    At (s.answer c (engineFunction c s src s.bcReq.dstCap))
  host : ∀ s cmd inLen turns script replies, At s →
    At { s with cmd := cmd, inLen := inLen, turns := turns, script := script, replies := replies }

/-- The engine has a step in a wait phase alone (R155). -/
theorem RunsOn.waits_of_engineReady (on : RunsOn m n s) (ready : engineReady s = true) : s.phase.waits = true := by
  obtain ⟨outstanding, -⟩ := Bool.and_eq_true_iff.1 ready
  by_contra noWait
  have quiet := on.port (Bool.eq_false_iff.2 noWait)
  exact Bool.false_ne_true (quiet.req.symm.trans outstanding)

/-- While BUSY the host changes nothing a command rests on, or it resets the framer (R165, R232). -/
theorem HostMove.keeps_commandRun (stages : StagesLeadTo c At m n o) (on : RunsOn m n s) (stage : At s)
    (busy : s.busy = true) (move : HostMove c s t) : CommandRun At m n o t := by
  have goesOn (cmd : Word32) (inLen : Nat) (script : List HostOp) (replies : List Nat) :
      CommandRun At m n o { s with cmd := cmd, inLen := inLen, script := script, replies := replies } :=
    .runs (on.host cmd inLen script replies) (stages.host s cmd inLen s.turns script replies stage)
  cases move with
  | quiet script replies eq => exact eq ▸ goesOn s.cmd s.inLen script replies
  | cmd code eq => exact eq ▸ goesOn (code.setWidth 32) s.inLen s.script s.replies
  | inLen v fits eq => exact eq ▸ goesOn s.cmd v s.script s.replies
  | inByte idle | start idle => rw [busy] at idle; cases idle
  | reset eq => exact eq ▸ .ended rfl nofun

theorem CommandRun.step (stages : StagesLeadTo c At m n o) (run : CommandRun At m n o s) (busy : s.busy = true)
    (step : stepWith c s = .next t) : CommandRun At m n o t := by
  cases run with
  | ended idle => rw [busy] at idle; cases idle
  | runs on stage =>
    have stage' (script : List HostOp) : At { s.takeTurn with script := script } :=
      stages.host s s.cmd s.inLen s.turns.tail script s.replies stage
    cases step_moves step with
    | framer who ready move => exact stages.framer _ _ on.takeTurn (stage' s.script) move
    | engine who ready inside src read eq =>
      have waits : s.takeTurn.phase.waits = true := on.takeTurn.waits_of_engineReady ready
      exact eq ▸ .runs (on.takeTurn.answer waits _) (stages.engine _ src on.takeTurn (stage' s.script) waits read)
    | host who op rest next move =>
      exact move.keeps_commandRun stages (on.takeTurn.host s.cmd s.inLen rest s.replies) (stage' rest) busy
    | idle who idle => rw [busy] at idle; cases idle

/-- A run that begins with `At` and ends has the result `o`. -/
theorem StagesLeadTo.observe_of_endsAfter {k : Nat} (stages : StagesLeadTo c At m n o) (on : RunsOn m n u) (stage : At u)
    (ends : EndsAfter c k u t) : observe t = o := by
  have done : t.phase = .done := ends.2.1
  have run : CommandRun At m n o t := ends.keeps (.runs on stage) fun _ _ => CommandRun.step stages
  cases run with
  | runs _ stage => exact absurd done (stages.notDone t stage)
  | ended _ result => exact result done

end CommandRuns

section DecodeRuns

variable {c : Config} {m : Memory} {b : Bytes} {size : Word32} {payload : Bytes} {s t : State}

/-! ## The input, as DECODE and SNIFF read it -/

theorem sniffFn_eq_true_iff (b : Bytes) : sniffFn b = true ↔ ∃ t, b = magic ++ t := by
  rw [sniffFn, decide_eq_true_iff, take_eq_magic_iff, and_iff_right_iff_imp]
  rintro ⟨t, rfl⟩
  exact magicLen_le_magic_append t

/-- On an input that is written, MAGIC_OK is SNIFF (R86, R140). -/
theorem magicMatch_eq_sniffFn (read : m.readBytes 0 b.length = some b) :
    magicMatch m b.length = some (sniffFn b) := by
  by_cases long : magicLen ≤ b.length
  · have first : m.readBytes 0 magicLen = some (b.take magicLen) :=
      Memory.readBytes_sub read 0 magicLen ((Nat.zero_add magicLen).trans_le long)
    rw [magicMatch_of_read long first, sniffFn]
    simp only [long, true_and]
  · rw [magicMatch_of_lt (Nat.not_le.1 long), sniffFn]
    simp only [long, false_and, decide_false]

/-- The size field taken after Magic is the one of the input (R122). -/
theorem eq_header_of_sizeAt {rest : Bytes} (read : m.readBytes 0 (magic ++ rest).length = some (magic ++ rest))
    (below : hdrLen ≤ (magic ++ rest).length) (field : sizeAt m = some size) :
    ∃ payload, magic ++ rest = magic ++ le32Enc size ++ payload := by
  have four : m.readBytes magicLen sizeLen = some (rest.take sizeLen) := Memory.readBytes_sub read magicLen sizeLen below
  simp only [sizeAt, four] at field
  obtain ⟨more, taken⟩ := (sizeField_eq_some_iff _ _).1 field
  refine ⟨more ++ rest.drop sizeLen, ?_⟩
  calc magic ++ rest
    _ = magic ++ (rest.take sizeLen ++ rest.drop sizeLen) := by rw [List.take_append_drop]
    _ = magic ++ le32Enc size ++ (more ++ rest.drop sizeLen) := by rw [taken]; simp only [List.append_assoc]

theorem length_header_append (size : Word32) (payload : Bytes) :
    (magic ++ le32Enc size ++ payload).length = hdrLen + payload.length := List.length_append

/-- The bytes of IN behind the header are the Payload (R124). -/
theorem readBytes_payload
    (read : m.readBytes 0 (magic ++ le32Enc size ++ payload).length = some (magic ++ le32Enc size ++ payload)) :
    m.readBytes hdrLen payload.length = some payload := by
  rw [length_header_append] at read
  have part := Memory.readBytes_sub read hdrLen payload.length le_rfl
  rwa [drop_header, List.take_length, Nat.zero_add] at part

/-! ## DECODE as a function, by its further cases -/

theorem decodeFn_of_not_sniffFn (c : Config) (differs : sniffFn b = false) : decodeFn c b = .err .invalidFormat := by
  have rejected : ¬(magicLen ≤ b.length ∧ b.take magicLen = magic) := of_decide_eq_false differs
  rw [not_and_or, Nat.not_le] at rejected
  exact if_pos rejected

theorem decodeFn_of_truncated (c : Config) {rest : Bytes} (short : rest.length ≤ 3) :
    decodeFn c (magic ++ rest) = .err .invalidFormat := by
  simp only [decodeFn, if_neg (not_rejected_of_magic rest), drop_magic_append, (sizeField_eq_none_iff rest).2 short]

theorem decodeFn_of_fail {e : Nat} (nonzero : size ≠ 0) (fail : c.decompressBlock payload size.toNat = .fail e) :
    decodeFn c (magic ++ le32Enc size ++ payload) = .err (.decompressionFailed e) := by
  simp only [decodeFn, if_neg (not_rejected_of_header size payload), sizeField_of_header, if_neg nonzero, drop_header, fail]

theorem decodeFn_of_mismatch {w : Bytes} (nonzero : size ≠ 0) (ok : c.decompressBlock payload size.toNat = .ok w)
    (differs : w.length ≠ size.toNat) :
    decodeFn c (magic ++ le32Enc size ++ payload) = .err (.sizeMismatch size w.length) := by
  simp only [decodeFn, if_neg (not_rejected_of_header size payload), sizeField_of_header, if_neg nonzero, drop_header, ok,
    if_neg differs]

/-! ## What each phase of DECODE knows -/

/-- What a running DECODE has established of its input `b` in the phase it is in; the phases of the other commands are none of
its own. -/
def DecodeAt (c : Config) (b : Bytes) (s : State) : Prop :=
  match s.phase with
  | .d1Magic => True
  | .d2Size => s.inPos = magicLen ∧ ∃ rest, b = magic ++ rest
  | .d3Empty => ∃ payload, b = magic ++ le32Enc s.size ++ payload
  | .d4Decomp => s.size ≠ 0 ∧ ∃ payload, b = magic ++ le32Enc s.size ++ payload
  | .d4Wait => s.size ≠ 0 ∧ ∃ payload, b = magic ++ le32Enc s.size ++ payload ∧
      s.bcReq = ⟨true, 1, hdrLen, payload.length, 0, s.size.toNat⟩ ∧
      (s.bcRsp.valid = true → AnswerStands s (c.decompressBlock payload s.size.toNat))
  | .idle | .e1Size | .e2Alloc | .e3Hdr | .e4Empty | .e5Comp | .e5Wait | .s1Magic | .done => False

/-- DECODE of `b` from START on. -/
abbrev DecodeRun (c : Config) (m : Memory) (b : Bytes) : State → Prop :=
  CommandRun (DecodeAt c b) m b.length (observedResult (decodeFn c b))

/-- A failure completion ends the run with the error it raises. -/
theorem decodeRun_of_raise (cleared : Cleared s) {k : ErrorKind} (result : decodeFn c b = .err k) :
    DecodeRun c m b (s.raise k) :=
  .ended rfl fun _ => by rw [observe_raise cleared, result]

/-! ## The steps of the sequencer -/

theorem RunsOn.after_d1Magic (on : RunsOn m b.length s) (read : m.readBytes 0 b.length = some b) (p : s.phase = .d1Magic)
    (found : magicMatch s.inp s.n = some true) : DecodeRun c m b { s with inPos := magicLen, phase := .d2Size } := by
  have quiet := on.port (by rw [p]; rfl)
  rw [on.inp, on.n, magicMatch_eq_sniffFn read, Option.some.injEq] at found
  exact .runs { on with cleared := { on.cleared with }, port := fun _ => { quiet with } }
    ⟨rfl, (sniffFn_eq_true_iff b).1 found⟩

theorem RunsOn.rejected_at_d1Magic (on : RunsOn m b.length s) (read : m.readBytes 0 b.length = some b)
    (found : magicMatch s.inp s.n = some false) : DecodeRun c m b (s.raise .invalidFormat) := by
  rw [on.inp, on.n, magicMatch_eq_sniffFn read, Option.some.injEq] at found
  exact decodeRun_of_raise on.cleared (decodeFn_of_not_sniffFn c found)

theorem RunsOn.after_d2Size (on : RunsOn m b.length s) (stage : DecodeAt c b s) (read : m.readBytes 0 b.length = some b)
    (p : s.phase = .d2Size) (below : hdrLen ≤ s.n) (field : sizeAt s.inp = some size) :
    DecodeRun c m b (s.takeSize size) := by
  have quiet := on.port (by rw [p]; rfl)
  simp only [DecodeAt, p] at stage
  obtain ⟨-, rest, rfl⟩ := stage
  rw [on.n] at below
  rw [on.inp] at field
  exact .runs { on with cleared := { on.cleared with }, port := fun _ => { quiet with } }
    (eq_header_of_sizeAt read below field)

theorem RunsOn.rejected_at_d2Size (on : RunsOn m b.length s) (stage : DecodeAt c b s) (p : s.phase = .d2Size)
    (absent : sizeIsPresent s = false) : DecodeRun c m b (s.raise .invalidFormat) := by
  simp only [DecodeAt, p] at stage
  obtain ⟨cursor, rest, rfl⟩ := stage
  have short : rest.length ≤ 3 := by
    have length : (magic ++ rest).length = magicLen + rest.length := List.length_append
    rw [sizeIsPresent_eq_false_iff, on.n, cursor, length, Nat.add_sub_cancel_left] at absent
    exact Nat.le_of_lt_succ absent
  exact decodeRun_of_raise on.cleared (decodeFn_of_truncated c short)

theorem RunsOn.after_d3Empty (on : RunsOn m b.length s) (stage : DecodeAt c b s) (p : s.phase = .d3Empty) :
    DecodeRun c m b (d3Empty s) := by
  have quiet := on.port (by rw [p]; rfl)
  simp only [DecodeAt, p] at stage
  obtain ⟨payload, header⟩ := stage
  by_cases zero : s.size = 0
  · rw [d3Empty_of_eq_zero zero]
    rw [zero] at header
    refine .ended rfl fun _ => ?_
    rw [header, decodeFn_of_zero]
    exact observe_complete on.cleared (w := []) rfl
  · rw [d3Empty_of_ne_zero zero]
    exact .runs { on with cleared := { on.cleared with }, port := fun _ => { quiet with } } ⟨zero, payload, header⟩

/-- The request is for the Payload and for a window of exactly SIZE bytes (R124). -/
theorem RunsOn.after_d4Decomp (on : RunsOn m b.length s) (stage : DecodeAt c b s) (p : s.phase = .d4Decomp) :
    DecodeRun c m b (d4Decomp s) := by
  have quiet := on.port (by rw [p]; rfl)
  simp only [DecodeAt, p] at stage
  obtain ⟨nonzero, payload, header⟩ := stage
  have request : decompressRequest s = ⟨true, 1, hdrLen, payload.length, 0, s.size.toNat⟩ := by
    rw [decompressRequest, on.n, header, length_header_append, Nat.add_sub_cancel_left]
  have unanswered : (d4Decomp s).bcRsp.valid ≠ true := by simp [d4Decomp, quiet.rsp]
  exact .runs { on with cleared := { on.cleared with }, port := nofun }
    ⟨nonzero, payload, header, request, fun answered => absurd answered unanswered⟩

/-- The output is what the collaborator returned, where that is SIZE bytes (R125). -/
theorem RunsOn.after_d4Wait (on : RunsOn m b.length s) (stage : DecodeAt c b s) (p : s.phase = .d4Wait)
    (answered : s.bcRsp.valid = true) : DecodeRun c m b (d4Wait s) := by
  simp only [DecodeAt, p] at stage
  obtain ⟨nonzero, payload, header, request, answer⟩ := stage
  have stands := answer answered
  have cleared : Cleared s.consume := { on.cleared with }
  cases result : c.decompressBlock payload s.size.toNat with
  | fail e =>
    rw [result] at stands
    obtain ⟨failed, errinfo⟩ := stands
    rw [d4Wait_of_fail answered failed, errinfo]
    exact decodeRun_of_raise cleared (header ▸ decodeFn_of_fail nonzero result)
  | ok w =>
    rw [result] at stands
    obtain ⟨ok, len, output⟩ := stands
    by_cases exactly : w.length = s.size.toNat
    · rw [d4Wait_of_ok answered ok (len.trans exactly), ← exactly]
      rw [request] at output
      refine .ended rfl fun _ => ?_
      rw [observe_complete cleared output, header, decodeFn_of_decompressed nonzero result exactly]
    · rw [d4Wait_of_mismatch answered ok (len.trans_ne exactly), len]
      exact decodeRun_of_raise cleared (header ▸ decodeFn_of_mismatch nonzero result exactly)

theorem FramerMove.keeps_decodeRun (read : m.readBytes 0 b.length = some b) (on : RunsOn m b.length s)
    (stage : DecodeAt c b s) (move : FramerMove c s t) : DecodeRun c m b t := by
  cases move with
  | d1Bad p found eq => exact eq ▸ on.rejected_at_d1Magic read found
  | d1Good p found eq => exact eq ▸ on.after_d1Magic read p found
  | d2Short p absent eq => exact eq ▸ on.rejected_at_d2Size stage p absent
  | d2Present p present below size field eq => exact eq ▸ on.after_d2Size stage read p below field
  | d3 p eq => exact eq ▸ on.after_d3Empty stage p
  | d4c p eq => exact eq ▸ on.after_d4Decomp stage p
  | d4w p answered eq => exact eq ▸ on.after_d4Wait stage p answered
  | e1 p | e2 p | e3 p | e4 p | e5c p | e5w p | s1 p =>
    rw [DecodeAt, p] at stage
    exact stage.elim

/-! ## The engine's step and the run -/

/-- While DECODE runs, the engine answers its decompression of the Payload (R148, R152). -/
theorem DecodeAt.answer (read : m.readBytes 0 b.length = some b) (on : RunsOn m b.length s) (stage : DecodeAt c b s)
    (waits : s.phase.waits = true) {src : Bytes} (source : sourceBytes s = some src) :
    DecodeAt c b (s.answer c (engineFunction c s src s.bcReq.dstCap)) := by
  obtain p | p := (Phase.waits_iff _).1 waits
  case inl => rw [DecodeAt, p] at stage; exact stage.elim
  rw [DecodeAt, p] at stage
  obtain ⟨nonzero, payload, rfl, request, -⟩ := stage
  have isPayload : src = payload := by
    rw [sourceBytes, request, on.inp, readBytes_payload read] at source
    exact (Option.some.inj source).symm
  have decompresses : engineFunction c s src s.bcReq.dstCap = c.decompressBlock payload s.size.toNat := by
    rw [engineFunction, request, isPayload]
    rfl
  have stands : AnswerStands (s.answer c (engineFunction c s src s.bcReq.dstCap))
      (c.decompressBlock payload s.size.toNat) := by
    rw [← decompresses]
    exact s.answer_stands c _
  rw [DecodeAt, State.answer_phase, p, State.answer_size, State.answer_bcReq]
  exact ⟨nonzero, payload, rfl, request, fun _ => stands⟩

/-- The phases of DECODE lead to DECODE(b), on an input that is written. -/
theorem decodeStages (c : Config) (read : m.readBytes 0 b.length = some b) :
    StagesLeadTo c (DecodeAt c b) m b.length (observedResult (decodeFn c b)) where
  notDone s stage done := by rw [DecodeAt, done] at stage; exact stage
  framer _ _ := FramerMove.keeps_decodeRun read
  engine _ _ on stage waits := stage.answer read on waits
  host _ _ _ _ _ _ stage := stage

end DecodeRuns

/-- Settles O41: START begins a run in D1_MAGIC (R168), and `decodeStages` leads to its end. -/
theorem aRunOfDecodeComputesDecode : Obligations.ARunOfDecodeComputesDecode := by
  intro c s u t k b idle start ends length read
  have launched : execWith c .decode s = .next (s.launch 2 .d1Magic) := if_neg (by simp [idle])
  obtain rfl := Host.Outcome.next.inj (start.symm.trans launched)
  have on : RunsOn s.inp b.length (s.launch 2 .d1Magic) := length ▸ RunsOn.launch s 2 .d1Magic
  have stage : DecodeAt c b (s.launch 2 .d1Magic) := trivial
  exact (decodeStages c read).observe_of_endsAfter on stage ends

end Sys2Proof.Machine

/-! PROOFS. A run of SNIFF computes SNIFF(b) (O42): S1_MAGIC is its one phase, and the machinery of `StagesLeadTo` does the rest. -/

namespace Sys2Proof.Machine

section SniffRuns

variable {m : Memory} {b : Bytes} {s t : State}

/-- A running SNIFF is in its one phase (R141), which knows no more than every running command does. -/
def SniffAt (s : State) : Prop := s.phase = .s1Magic

/-- What the host reads when SNIFF has put `found` into MATCH and completed without output (R140, R170, R173). -/
theorem observe_sniffed (cleared : Cleared s) (found : Bool) :
    observe (({ s with matched := found } : State).complete 0) = { observedResult (.ok []) with matched := found } :=
  have completed : observe (s.complete 0) = observedResult (.ok []) := observe_complete cleared (w := []) rfl
  calc observe (({ s with matched := found } : State).complete 0)
    _ = { observe (s.complete 0) with matched := found } := rfl
    _ = { observedResult (.ok []) with matched := found } := by rw [completed]

/-- SNIFF ends with its first step of the sequencer, and MATCH is SNIFF(b). -/
theorem FramerMove.ends_sniff {c : Config} (read : m.readBytes 0 b.length = some b) (on : RunsOn m b.length s)
    (stage : SniffAt s) (move : FramerMove c s t) :
    CommandRun SniffAt m b.length { observedResult (.ok []) with matched := sniffFn b } t := by
  cases move with
  | s1 p found isFound eq =>
    rw [on.inp, on.n, magicMatch_eq_sniffFn read, Option.some.injEq] at isFound
    rw [eq, ← isFound]
    exact .ended rfl fun _ => observe_sniffed on.cleared _
  | e1 p | e2 p | e3 p | e4 p | e5c p | e5w p | d1Bad p | d1Good p | d2Short p | d2Present p | d3 p | d4c p | d4w p =>
    cases p.symm.trans stage

/-- The one phase of SNIFF leads to SNIFF(b), on an input that is written; it never waits for the engine. -/
theorem sniffStages (c : Config) (read : m.readBytes 0 b.length = some b) :
    StagesLeadTo c SniffAt m b.length { observedResult (.ok []) with matched := sniffFn b } where
  notDone _ stage done := by cases stage.symm.trans done
  framer _ _ := FramerMove.ends_sniff read
  engine s _ _ stage waits := by
    have noWait : s.phase.waits = false := congrArg Phase.waits stage
    cases noWait.symm.trans waits
  host _ _ _ _ _ _ stage := stage

end SniffRuns

/-- Settles O42: START begins a run in S1_MAGIC (R168), and `sniffStages` leads to its end. -/
theorem aRunOfSniffComputesSniff : Obligations.ARunOfSniffComputesSniff := by
  intro c s u t k b idle start ends length read
  have launched : execWith c .sniff s = .next (s.launch 3 .s1Magic) := if_neg (by simp [idle])
  obtain rfl := Host.Outcome.next.inj (start.symm.trans launched)
  have on : RunsOn s.inp b.length (s.launch 3 .s1Magic) := length ▸ RunsOn.launch s 3 .s1Magic
  have stage : SniffAt (s.launch 3 .s1Magic) := rfl
  exact (sniffStages c read).observe_of_endsAfter on stage ends

end Sys2Proof.Machine

/-! PROOFS. S1_MAGIC as the step of SNIFF (O22), and SNIFF beside stage 1 of DECODE (O52). -/

namespace Sys2Proof.Machine

theorem sniffStep_of_s1Magic {s : State} (busy : s.busy = true) (phase : s.phase = .s1Magic) :
    sniffStep s = s1Magic s := by
  rw [sniffStep, if_pos busy, phase]

/-- Settles O22: the value of MAGIC_MATCH for N below 8 and from 8 on (R86). -/
theorem s1MagicReportsTheMagic : Obligations.S1MagicReportsTheMagic := by
  intro s busy phase
  have step : exec .sniff s = s1Magic s := sniffStep_of_s1Magic busy phase
  rw [step]
  exact ⟨fun short => s1Magic_of_match (magicMatch_of_lt short),
    fun b long read => s1Magic_of_match (magicMatch_of_read long read)⟩

/-- SNIFF is the negation of the test by which DECODE rejects in stage 1 (R120, R140). -/
theorem sniffFn_eq_true_iff_not_rejected (b : Bytes) :
    sniffFn b = true ↔ ¬(b.length < magicLen ∨ b.take magicLen ≠ magic) := by
  rw [sniffFn, decide_eq_true_iff, not_or, Nat.not_lt, not_not]

/-- DECODE succeeds only where SNIFF is 1: where it is 0, DECODE answers InvalidFormat (R142). -/
theorem sniffFn_of_decodeFn_ok {c : Config} {b w : Bytes} (ok : decodeFn c b = .ok w) : sniffFn b = true := by
  by_contra differs
  cases ok.symm.trans (decodeFn_of_not_sniffFn c (Bool.eq_false_iff.2 differs))

/-- Settles O52. -/
theorem sniffAgreesWithDecodesFirstStage : Obligations.SniffAgreesWithDecodesFirstStage := fun c b =>
  ⟨decodeFn_of_not_sniffFn c, fun _ => sniffFn_of_decodeFn_ok, sniffFn_eq_true_iff_not_rejected b⟩

end Sys2Proof.Machine

/-! PROOFS. The engine's step (O23, O24): the cases of BCE_STEP (R152), and what the answer of a lawful collaborator leaves. -/

namespace Sys2Proof.Machine

section EngineStep

variable {c : Config} {f : Bytes → Nat → Answer} {s : State}

/-! ## BCE_STEP, by its cases -/

theorem engineReady_iff (s : State) : engineReady s = true ↔ s.bcReq.valid = true ∧ s.bcRsp.valid = false := by
  rw [engineReady, Bool.and_eq_true, Bool.not_eq_true']

theorem engineStep_of_not_ready (idle : ¬engineReady s = true) : engineStep c f s = .next s := if_neg idle

theorem engineStep_of_outside (ready : engineReady s = true)
    (outside : ¬insideInput s.n s.bcReq.srcOff s.bcReq.srcLen = true) : engineStep c f s = .fault .inReadBeyondN := by
  rw [engineStep, if_pos ready, if_neg outside]

theorem engineStep_of_unwritten (ready : engineReady s = true)
    (inside : insideInput s.n s.bcReq.srcOff s.bcReq.srcLen = true) (unwritten : sourceBytes s = none) :
    engineStep c f s = .fault .inByteHasNoValue := by
  rw [engineStep, if_pos ready, if_pos inside, unwritten]

theorem engineStep_of_read {src : Bytes} (ready : engineReady s = true)
    (inside : insideInput s.n s.bcReq.srcOff s.bcReq.srcLen = true) (read : sourceBytes s = some src) :
    engineStep c f s = .next (s.answer c (f src s.bcReq.dstCap)) := by
  rw [engineStep, if_pos ready, if_pos inside, read]

/-! ## COMPRESS and DECOMPRESS -/

/-- The instruction `i` is the port operation whose collaborator function is `f` (R147, R148). -/
def CallsCollaborator (i : Instr) (f : Bytes → Nat → Answer) : Prop :=
  (i = .compress ∧ f = Config.hw.compressBlock) ∨ (i = .decompress ∧ f = Config.hw.decompressBlock)

theorem CallsCollaborator.exec_eq {i : Instr} (calls : CallsCollaborator i f) (s : State) :
    exec i s = engineStep Config.hw f s := by
  obtain ⟨rfl, rfl⟩ | ⟨rfl, rfl⟩ := calls
  · rfl
  · rfl

/-- The law BC-FIT of either function (R149, R153). -/
theorem CallsCollaborator.fits {i : Instr} (calls : CallsCollaborator i f) (src : Bytes) (cap : Nat) (w : Bytes)
    (ok : f src cap = .ok w) : w.length ≤ cap := by
  obtain ⟨-, rfl⟩ | ⟨-, rfl⟩ := calls
  · exact Config.hw.compress_fits src cap w ok
  · exact Config.hw.decompress_fits src cap w ok

theorem exists_callsCollaborator {i : Instr} (operation : i = .compress ∨ i = .decompress) :
    ∃ f, CallsCollaborator i f :=
  operation.elim (fun compress => ⟨_, .inl ⟨compress, rfl⟩⟩) fun decompress => ⟨_, .inr ⟨decompress, rfl⟩⟩

end EngineStep

/-- Settles O23: the next state is `State.answer`, which BC-FIT keeps inside the destination window. -/
theorem theEngineAnswersARequest : Obligations.TheEngineAnswersARequest := by
  intro i f s src operation outstanding unanswered below read
  have calls : CallsCollaborator i f := operation
  have ready : engineReady s = true := (engineReady_iff s).2 ⟨outstanding, unanswered⟩
  have inside := (insideInput_iff s.n s.bcReq.srcOff s.bcReq.srcLen).2 below
  obtain ⟨registers, out⟩ := s.answer_frame (c := Config.hw) (calls.fits src s.bcReq.dstCap)
  have stands := s.answer_stands Config.hw (f src s.bcReq.dstCap)
  refine ⟨s.answer Config.hw (f src s.bcReq.dstCap), (calls.exec_eq s).trans (engineStep_of_read ready inside read),
    registers, out, s.answer_bcRsp_valid Config.hw _, ?_⟩
  generalize f src s.bcReq.dstCap = a at stands ⊢
  cases a with
  | ok w => exact stands
  | fail e => exact stands

/-- Settles O24: the other cases of BCE_STEP. -/
theorem theEngineStepsOnlyOnReadableRequests : Obligations.TheEngineStepsOnlyOnReadableRequests := by
  intro i s operation
  obtain ⟨f, calls⟩ := exists_callsCollaborator operation
  rw [calls.exec_eq s]
  refine ⟨fun disabled => ?_, fun outstanding unanswered below unwritten => ?_,
    fun outstanding unanswered nonempty beyond => ?_⟩
  · exact engineStep_of_not_ready fun ready => disabled ((engineReady_iff s).1 ready)
  · exact engineStep_of_unwritten ((engineReady_iff s).2 ⟨outstanding, unanswered⟩) ((insideInput_iff _ _ _).2 below)
      unwritten
  · refine engineStep_of_outside ((engineReady_iff s).2 ⟨outstanding, unanswered⟩) fun inside => ?_
    obtain empty | below := (insideInput_iff _ _ _).1 inside
    · exact nonempty empty
    · exact Nat.not_le.2 beyond below

end Sys2Proof.Machine

/-! PROOFS. The fixtures COPY, LIT and FAIL (O55, O56): when each function succeeds, the laws, and the commands under COPY. -/

namespace Sys2Proof.Machine

section Fixtures

variable {src : Bytes} {cap target : Nat}

/-- COPY and LIT answer their block where it fits, and no other success (R158, R159). -/
theorem eq_of_fitting_ok {block p : Bytes} (ok : (if block.length ≤ cap then Answer.ok block else .fail 1) = .ok p) :
    block = p := by
  split at ok
  case isTrue => exact Answer.ok.inj ok
  case isFalse => cases ok

/-! ## COPY -/

theorem copyCompress_of_le (room : src.length ≤ cap) : copyCodec.compressBlock src cap = .ok src := if_pos room

theorem copyDecompress_of_le (room : src.length ≤ target) : copyCodec.decompressBlock src target = .ok src := if_pos room

theorem copyDecompress_of_gt (tooLong : target < src.length) : copyCodec.decompressBlock src target = .fail 2 :=
  if_neg (Nat.not_le.2 tooLong)

theorem copyCodec_valid : copyCodec.Valid := by
  intro src cap p ok
  obtain rfl := eq_of_fitting_ok (block := src) ok
  exact copyDecompress_of_le le_rfl

/-! ## LIT -/

theorem litBlock_of_lt (short : src.length < 15) : litBlock src = BitVec.ofNat 8 (src.length * 16) :: src := if_pos short

theorem litBlock_of_le (long : 15 ≤ src.length) :
    litBlock src = 0xF0 ::
      (List.replicate ((src.length - 15) / 255) 0xFF ++ BitVec.ofNat 8 ((src.length - 15) % 255) :: src) :=
  if_neg (Nat.not_lt.2 long)

theorem length_litBlock_le (src : Bytes) : (litBlock src).length ≤ defaultBound src.length := by
  rw [defaultBound]
  by_cases short : src.length < 15
  · rw [litBlock_of_lt short, List.length_cons]
    omega
  · rw [litBlock_of_le (Nat.not_lt.1 short), List.length_cons, List.length_append, List.length_replicate, List.length_cons]
    omega

/-- The length extension adds up its 255s and the byte that ends it (R159). -/
theorem litExtend_replicate (l k : Nat) {last : Byte} (ends : last ≠ 255) (q : Bytes) :
    litExtend l (List.replicate k 0xFF ++ last :: q) = some (l + 255 * k + last.toNat, q) := by
  induction k generalizing l with
  | zero => exact if_neg ends
  | succ k ih =>
    calc litExtend l (List.replicate (k + 1) 0xFF ++ last :: q)
      _ = litExtend (l + 255) (List.replicate k 0xFF ++ last :: q) := rfl
      _ = some (l + 255 + 255 * k + last.toNat, q) := ih (l + 255)
      _ = some (l + 255 * (k + 1) + last.toNat, q) := by rw [show l + 255 + 255 * k = l + 255 * (k + 1) by omega]

/-- A token below 15 literals carries the length itself. -/
theorem litDecompress_of_token {tok : Byte} (noMatch : tok.extractLsb' 0 4 = 0)
    (length : (tok.extractLsb' 4 4).toNat = src.length) (short : src.length < 15) (room : src.length ≤ target) :
    litDecompress (tok :: src) target = .ok src := by
  simp [litDecompress, noMatch, length, short.ne, Nat.not_lt.2 room]

/-- The token of 15 literals or more is followed by the extension of the length. -/
theorem litDecompress_of_extension {rest : Bytes} (extension : litExtend 15 rest = some (src.length, src))
    (room : src.length ≤ target) : litDecompress (0xF0 :: rest) target = .ok src := by
  simp [litDecompress, extension, Nat.not_lt.2 room]

/-- LIT's decompressor undoes its block, wherever the target has room for the literals. -/
theorem litDecompress_litBlock (room : src.length ≤ target) : litDecompress (litBlock src) target = .ok src := by
  by_cases short : src.length < 15
  · rw [litBlock_of_lt short]
    have token : (BitVec.ofNat 8 (src.length * 16)).toNat = src.length * 16 := Nat.mod_eq_of_lt (by omega)
    refine litDecompress_of_token (BitVec.eq_of_toNat_eq ?_) ?_ short room
    · rw [BitVec.extractLsb'_toNat, token, Nat.shiftRight_zero]
      exact Nat.mul_mod_left src.length 16
    · rw [BitVec.extractLsb'_toNat, token, Nat.shiftRight_eq_div_pow]
      omega
  · have last : (BitVec.ofNat 8 ((src.length - 15) % 255)).toNat = (src.length - 15) % 255 :=
      Nat.mod_eq_of_lt (by omega)
    have ends : BitVec.ofNat 8 ((src.length - 15) % 255) ≠ 255 := fun full => by
      have overflows : (src.length - 15) % 255 = 255 := last.symm.trans (congrArg BitVec.toNat full)
      omega
    rw [litBlock_of_le (Nat.not_lt.1 short)]
    refine litDecompress_of_extension ?_ room
    rw [litExtend_replicate 15 _ ends, last, Nat.add_assoc, Nat.div_add_mod, Nat.add_sub_cancel' (Nat.not_lt.1 short)]

theorem litCompress_of_bound_le (room : litCodec.compressBound src.length ≤ cap) :
    litCodec.compressBlock src cap = .ok (litBlock src) :=
  if_pos ((length_litBlock_le src).trans room)

theorem litCodec_valid : litCodec.Valid := by
  intro src cap p ok
  obtain rfl := eq_of_fitting_ok (block := litBlock src) ok
  exact litDecompress_litBlock le_rfl

/-! ## BC-BOUND -/

/-- A compressor that always succeeds with its bound or more of room keeps BC-BOUND (R150). -/
theorem boundSuffices_of_ok {c : Config} (block : Bytes → Bytes)
    (ok : ∀ src cap, c.compressBound src.length ≤ cap → c.compressBlock src cap = .ok (block src)) : c.BoundSuffices := by
  intro src cap more e room _ fails
  cases (ok src cap room).symm.trans fails

end Fixtures

/-- Settles O55: LIT's round trip is `litDecompress_litBlock`; FAIL never compresses, so it keeps BC-VALID, and fails with every
room, so it keeps BC-BOUND. -/
theorem theFixturesKeepTheLaws : Obligations.TheFixturesKeepTheLaws := by
  refine ⟨copyCodec_valid, litCodec_valid, ?failValid, ?copyBound, ?litBound, ?failBound, fun src cap => ?succeeds⟩
  case failValid => intro src cap p ok; cases ok
  case copyBound => exact boundSuffices_of_ok id fun _ _ => copyCompress_of_le
  case litBound => exact boundSuffices_of_ok litBlock fun _ _ => litCompress_of_bound_le
  case failBound => exact fun _ _ _ _ _ _ _ => ⟨0x0BAD, rfl⟩
  case succeeds => exact ⟨copyCompress_of_le, litCompress_of_bound_le⟩

/-! ## The commands under COPY -/

theorem encodeFn_copyCodec {d : Bytes} (fits : d.length ≤ sizeMax) :
    encodeFn copyCodec d = .ok (headerBytes d.length ++ d) := by
  by_cases empty : d.length = 0
  · obtain rfl := List.length_eq_zero_iff.1 empty
    exact encodeFn_nil copyCodec
  · exact encodeFn_of_ok fits empty (copyCompress_of_le le_rfl)

/-- Settles O56: COPY returns a Payload no longer than the declared size, and fails on a longer one. -/
theorem commandsUnderTheCopyFixture : Obligations.CommandsUnderTheCopyFixture := by
  refine ⟨fun d => encodeFn_copyCodec, fun size q nonzero => ⟨fun equal => ?_, fun shorter => ?_, fun longer => ?_⟩⟩
  · exact decodeFn_of_decompressed nonzero (copyDecompress_of_le equal.le) equal
  · exact decodeFn_of_mismatch nonzero (copyDecompress_of_le shorter.le) shorter.ne
  · exact decodeFn_of_fail nonzero (copyDecompress_of_gt longer)

end Sys2Proof.Machine

/-! PROOFS. What a step runs (O6), START and NOP (O9, O10), the commands off their phase (O28), and the host's register accesses
(O58): the turn of each agent, the launch of each command, and the cases the statements about phases leave out. -/

namespace Sys2Proof.Machine

section Turns

variable {c : Config} {ex : Instr → State → Outcome} {s : State}

/-! ## What an agent's turn runs -/

theorem stepBy_of_framer (who : pick s = some .framer) : stepBy c ex s = ex (framerInstr s) s.takeTurn := by
  rw [stepBy, who]

theorem stepBy_of_engine (who : pick s = some .engine) : stepBy c ex s = ex (engineInstr s) s.takeTurn := by
  rw [stepBy, who]

theorem framerReady_iff (s : State) : framerReady s = true ↔
    s.busy = true ∧ s.phase.command.isSome = true ∧ (s.phase.waits = true → s.bcRsp.valid = true) := by
  simp [framerReady, and_assoc, ← Bool.not_eq_true, imp_iff_not_or]

/-- The step of the framer is the step of the command its phase belongs to (R167). -/
theorem step_of_framer {i : Instr} (who : pick s = some .framer) (command : s.phase.command = some i) :
    step s = exec i s.takeTurn := by
  obtain ⟨busy, -, -⟩ := (framerReady_iff s).1 (pick_ready who)
  calc step s
    _ = exec (framerInstr s) s.takeTurn := stepBy_of_framer who
    _ = execWith Config.hw (framerInstr s) s.takeTurn := exec_eq_execWith _ _
    _ = execWith Config.hw i s.takeTurn := framer_runs_its_command busy command
    _ = exec i s.takeTurn := (exec_eq_execWith _ _).symm

/-- At D2_SIZE the framer reads the header its input begins with (log 13). -/
theorem framerInstr_of_header {header : Bytes} {i : Instr} (phase : s.phase = .d2Size) (cursor : s.inPos = magicLen)
    (below : hdrLen ≤ s.n) (read : s.inp.readBytes 0 hdrLen = some header) (decoded : decode (.container header) = .ok i) :
    framerInstr s = i := by
  have present : sizeIsPresent s = true := by
    rw [sizeIsPresent_iff, cursor]
    exact Nat.le_sub_of_add_le below
  simp only [framerInstr, phase, present, if_true, headerAt_of_decode below read decoded, Option.getD_some]

/-! ## A write to CTRL -/

theorem writeCtrl_of_start {v : Nat} (start : v.testBit 0 = true) (idle : s.busy = false) :
    writeCtrl ex v s = ex (decodeCommand s.cmd) s := by
  rw [writeCtrl, isStart, start, idle]
  rfl

theorem writeCtrl_of_busy {v : Nat} (busy : s.busy = true) : writeCtrl ex v s = .next s := by
  simp [writeCtrl, busy]

theorem writeCtrl_of_bit_clear {v : Nat} (clear : v.testBit 0 = false) : writeCtrl ex v s = .next s := by
  rw [writeCtrl, isStart, clear]
  rfl

end Turns

/-- Settles O6: the three agents' turns; at D2_SIZE the instruction the framer reads is the header itself. -/
theorem aStepRunsTheDecodedInstruction : Obligations.AStepRunsTheDecodedInstruction := by
  refine ⟨?host, ?engine, ?framer, ?header⟩
  case host =>
    rintro s v rest i who next start idle ⟨⟩
    rw [step_of_host who next]
    exact writeCtrl_of_start (s := { s with turns := s.turns.tail, script := rest }) start idle
  case engine =>
    rintro s i who ⟨⟩
    exact stepBy_of_engine who
  case framer => exact fun s i => step_of_framer
  case header =>
    intro s header i who phase cursor below read decoded
    rw [← framerInstr_of_header phase cursor below read decoded]
    exact stepBy_of_framer who

/-! ## The launch of each command -/

section Launch

variable {c : Config} {s : State}

theorem nopStep_of_idle (idle : s.busy = false) : nopStep s = .next ((s.launch 0 .done).complete 0) := by
  rw [nopStep, idle, if_neg Bool.false_ne_true]

theorem encodeStep_of_idle (idle : s.busy = false) : encodeStep c s = .next (s.launch 1 .e1Size) := by
  rw [encodeStep, idle, if_neg Bool.false_ne_true]

theorem decodeStep_of_idle (idle : s.busy = false) : decodeStep s = .next (s.launch 2 .d1Magic) := by
  rw [decodeStep, idle, if_neg Bool.false_ne_true]

theorem sniffStep_of_idle (idle : s.busy = false) : sniffStep s = .next (s.launch 3 .s1Magic) := by
  rw [sniffStep, idle, if_neg Bool.false_ne_true]

/-- A word of CMD is one of the four commands (R70). -/
theorem decodeCommand_cases (word : Word32) :
    decodeCommand word = .nop ∨ decodeCommand word = .encode ∨ decodeCommand word = .decode ∨
      decodeCommand word = .sniff := by
  unfold decodeCommand
  generalize word.extractLsb' 0 2 = code
  revert code
  decide

/-- START at a framer that is not busy always launches the command in CMD (R166, R168). -/
theorem exists_startMove (idle : s.busy = false) :
    ∃ t, execWith c (decodeCommand s.cmd) s = .next t ∧ StartMove s t := by
  have launches : ∃ t, execWith c (decodeCommand s.cmd) s = .next t := by
    obtain command | command | command | command := decodeCommand_cases s.cmd <;> rw [command]
    · exact ⟨_, nopStep_of_idle idle⟩
    · exact ⟨_, encodeStep_of_idle idle⟩
    · exact ⟨_, decodeStep_of_idle idle⟩
    · exact ⟨_, sniffStep_of_idle idle⟩
  obtain ⟨t, launched⟩ := launches
  exact ⟨t, launched, start_moves idle launched⟩

end Launch

/-- Settles O9: the launch of each command code, `StartMove`. -/
theorem startLaunchesTheCommand : Obligations.StartLaunchesTheCommand := by
  intro s v rest who next start
  refine ⟨fun busy => (step_of_host who next).trans (writeCtrl_of_busy busy), fun idle => ?_⟩
  obtain ⟨t, launched, move⟩ :=
    exists_startMove (c := Config.hw) (s := { s with turns := s.turns.tail, script := rest }) idle
  have stepped : step s = .next t := by
    rw [step_of_host who next, ← launched, ← exec_eq_execWith]
    exact writeCtrl_of_start (s := { s with turns := s.turns.tail, script := rest }) start idle
  rw [stepped]
  cases move with
  | nop code eq =>
    rw [eq, show s.cmd.extractLsb' 0 2 = 0 from code]
    exact ⟨false, true, .done, rfl, by decide⟩
  | encode code eq =>
    rw [eq, show s.cmd.extractLsb' 0 2 = 1 from code]
    exact ⟨true, false, .e1Size, rfl, by decide⟩
  | decode code eq =>
    rw [eq, show s.cmd.extractLsb' 0 2 = 2 from code]
    exact ⟨true, false, .d1Magic, rfl, by decide⟩
  | sniff code eq =>
    rw [eq, show s.cmd.extractLsb' 0 2 = 3 from code]
    exact ⟨true, false, .s1Magic, rfl, by decide⟩

/-- Settles O10: NOP is its launch and the success completion in one step. -/
theorem nopCompletesAtOnce : Obligations.NopCompletesAtOnce := fun _ => nopStep_of_idle

/-! ## Commands in a phase of another command, and unreadable input -/

section OffPhase

variable {c : Config} {s : State}

theorem nopStep_of_busy (busy : s.busy = true) : nopStep s = .next s := if_pos busy

theorem encodeStep_of_foreign (busy : s.busy = true) (foreign : s.phase.command ≠ some .encode) :
    encodeStep c s = .next s := by
  rw [encodeStep, if_pos busy]
  cases phase : s.phase with
  | e1Size | e2Alloc | e3Hdr | e4Empty | e5Comp | e5Wait => exact absurd (congrArg Phase.command phase) foreign
  | idle | d1Magic | d2Size | d3Empty | d4Decomp | d4Wait | s1Magic | done => rfl

theorem decodeStep_of_foreign (busy : s.busy = true) (foreign : s.phase.command ≠ some .decode) :
    decodeStep s = .next s := by
  rw [decodeStep, if_pos busy]
  cases phase : s.phase with
  | d1Magic | d2Size | d3Empty | d4Decomp | d4Wait => exact absurd (congrArg Phase.command phase) foreign
  | idle | e1Size | e2Alloc | e3Hdr | e4Empty | e5Comp | e5Wait | s1Magic | done => rfl

theorem sniffStep_of_foreign (busy : s.busy = true) (foreign : s.phase.command ≠ some .sniff) :
    sniffStep s = .next s := by
  rw [sniffStep, if_pos busy]
  cases phase : s.phase with
  | s1Magic => exact absurd (congrArg Phase.command phase) foreign
  | idle | e1Size | e2Alloc | e3Hdr | e4Empty | e5Comp | e5Wait | d1Magic | d2Size | d3Empty | d4Decomp | d4Wait
  | done => rfl

theorem magicMatch_of_unwritten {m : Memory} {n : Nat} (long : magicLen ≤ n) (unwritten : m.readBytes 0 magicLen = none) :
    magicMatch m n = none := by
  simp only [magicMatch, if_neg (Nat.not_lt.2 long), unwritten]

theorem d1Magic_of_unwritten (unwritten : magicMatch s.inp s.n = none) : d1Magic s = .fault .inByteHasNoValue := by
  simp only [d1Magic, magicOk, unwritten]

theorem s1Magic_of_unwritten (unwritten : magicMatch s.inp s.n = none) : s1Magic s = .fault .inByteHasNoValue := by
  simp only [s1Magic, magicOk, unwritten]

theorem d2Size_of_unwritten (present : sizeIsPresent s = true) (below : hdrLen ≤ s.n)
    (unwritten : s.inp.readBytes magicLen sizeLen = none) : d2Size s = .fault .inByteHasNoValue := by
  simp only [d2Size, present, (insideInput_size_iff s.n).2 below, sizeAt, unwritten, if_true]

theorem d2Size_of_beyond (present : sizeIsPresent s = true) (beyond : s.n < hdrLen) :
    d2Size s = .fault .inReadBeyondN := by
  rw [d2Size, if_pos present, if_neg fun inside => Nat.not_le.2 beyond ((insideInput_size_iff s.n).1 inside)]

end OffPhase

/-- Settles O28: the launch and the foreign phases of each command, then what a phase does with input it cannot read. -/
theorem commandsOffTheirPhase : Obligations.CommandsOffTheirPhase := by
  refine ⟨fun i code first s command => ?commands, fun s => nopStep_of_busy, fun s busy => ?unreadable⟩
  case commands =>
    obtain ⟨rfl, rfl, rfl⟩ | ⟨rfl, rfl, rfl⟩ | ⟨rfl, rfl, rfl⟩ := command
    · exact ⟨encodeStep_of_idle, encodeStep_of_foreign⟩
    · exact ⟨decodeStep_of_idle, decodeStep_of_foreign⟩
    · exact ⟨sniffStep_of_idle, sniffStep_of_foreign⟩
  case unreadable =>
    refine ⟨fun phase long unwritten => ?_, fun phase enough below unwritten => ?_, fun phase enough beyond => ?_,
      fun phase long unwritten => ?_⟩
    · exact (decodeStep_of_d1Magic busy phase).trans (d1Magic_of_unwritten (magicMatch_of_unwritten long unwritten))
    · exact (decodeStep_of_d2Size busy phase).trans
        (d2Size_of_unwritten ((sizeIsPresent_iff s).2 enough) below unwritten)
    · exact (decodeStep_of_d2Size busy phase).trans (d2Size_of_beyond ((sizeIsPresent_iff s).2 enough) beyond)
    · exact (sniffStep_of_s1Magic busy phase).trans (s1Magic_of_unwritten (magicMatch_of_unwritten long unwritten))

/-! ## The host's register accesses -/

section RegisterAccess

variable {c : Config} {s : State} {v : Nat}

theorem writeReg_inLen_of_lt (fits : v < 2 ^ c.lenw) : writeReg c 3 v s = .next { s with inLen := v } := if_pos fits

theorem writeReg_inLen_of_le (wide : 2 ^ c.lenw ≤ v) : writeReg c 3 v s = .refused .valueTooWide :=
  if_neg (Nat.not_lt.2 wide)

/-- Only CMD, CTRL and IN_LEN take a write (R75). -/
theorem writeReg_of_other {reg : Nat} (notCmd : reg ≠ 0) (notInLen : reg ≠ 3) : writeReg c reg v s = .next s := by
  unfold writeReg
  split
  · exact absurd rfl notCmd
  · exact absurd rfl notInLen
  · rfl

/-- COPYBACK of no byte is the write of IN_LEN alone (R77). -/
theorem copyRest_zero (len : Nat) : copyRest 0 len = if len = 0 then .wr 3 0 else .copyRead 0 len := by
  cases len <;> rfl

end RegisterAccess

/-- Settles O58: each clause is one access of `hostAccess`; a write goes by its register number. -/
theorem hostRegisterAccesses : Obligations.HostRegisterAccesses := by
  intro s rest who s'
  have turn {op : HostOp} (next : s.script = op :: rest) : step s = hostAccess Config.hw exec op s' := step_of_host who next
  refine ⟨?read, ?cmd, ?inLen, ?inLenWide, ?ctrl, ?other, ?ifMatch, ?ifOk, ?copyback, fun _ => ⟨rfl, rfl, rfl⟩⟩
  case read => exact fun _ next => turn next
  case cmd =>
    intro v next
    have kept : ((BitVec.ofNat 2 v).setWidth 32).toNat = v % 4 := by
      rw [BitVec.toNat_setWidth, BitVec.toNat_ofNat]
      omega
    exact ⟨(BitVec.ofNat 2 v).setWidth 32, kept, turn next⟩
  case inLen => exact fun _ next fits => (turn next).trans (writeReg_inLen_of_lt fits)
  case inLenWide => exact fun _ next wide => (turn next).trans (writeReg_inLen_of_le wide)
  case ctrl => exact fun _ next clear => (turn next).trans (writeCtrl_of_bit_clear clear)
  case other =>
    intro reg v next notCmd notCtrl notInLen
    rw [turn next, hostAccess, if_neg notCtrl, writeReg_of_other notCmd notInLen]
  case ifMatch | ifOk => exact fun _ next => turn next
  case copyback =>
    intro next
    rw [turn next, ← copyRest_zero]
    rfl

end Sys2Proof.Machine

/-! PROOFS. What a step can stop with, and that a busy framer is never stuck and never reads IN at or above N (O37). -/

namespace Sys2Proof.Machine

section Faults

variable {c : Config} {s : State} {f : Fault}

/-! ## What an instruction, an access and a step can stop with -/

/-- What an instruction stops with: an unwritten byte of IN (R244), or a read at or above N, by D2_SIZE or the engine (R44). -/
inductive ExecFault (s : State) : Fault → Prop where
  | unwritten : ExecFault s .inByteHasNoValue
  | sizeBeyondN (phase : s.phase = .d2Size) (present : sizeIsPresent s = true) (beyond : s.n < hdrLen) :
      ExecFault s .inReadBeyondN
  | sourceBeyondN (ready : engineReady s = true)
      (outside : ¬insideInput s.n s.bcReq.srcOff s.bcReq.srcLen = true) : ExecFault s .inReadBeyondN

theorem d1Magic_fault (h : d1Magic s = .fault f) : f = .inByteHasNoValue := by
  unfold d1Magic at h
  split at h <;> cases h
  rfl

theorem s1Magic_fault (h : s1Magic s = .fault f) : f = .inByteHasNoValue := by
  unfold s1Magic at h
  split at h <;> cases h
  rfl

theorem d2Size_fault (phase : s.phase = .d2Size) (h : d2Size s = .fault f) : ExecFault s f := by
  unfold d2Size at h
  split at h
  case isFalse => cases h
  case isTrue present =>
    split at h
    case isTrue =>
      split at h <;> cases h
      exact .unwritten
    case isFalse outside =>
      cases h
      exact .sizeBeyondN phase present (Nat.not_le.1 fun below => outside ((insideInput_size_iff s.n).2 below))

theorem nopStep_ne_fault : nopStep s ≠ .fault f := by
  intro h
  unfold nopStep at h
  split at h <;> cases h

theorem encodeStep_ne_fault : encodeStep c s ≠ .fault f := by
  intro h
  unfold encodeStep at h
  split at h
  · split at h <;> cases h
  · cases h

theorem decodeStep_fault (h : decodeStep s = .fault f) : ExecFault s f := by
  unfold decodeStep at h
  split at h
  case isFalse => cases h
  case isTrue =>
    cases phase : s.phase <;> rw [phase] at h
    case d1Magic => exact d1Magic_fault h ▸ .unwritten
    case d2Size => exact d2Size_fault phase h
    all_goals cases h

theorem sniffStep_fault (h : sniffStep s = .fault f) : f = .inByteHasNoValue := by
  unfold sniffStep at h
  split at h
  case isFalse => cases h
  case isTrue =>
    cases phase : s.phase <;> rw [phase] at h
    case s1Magic => exact s1Magic_fault h
    all_goals cases h

theorem containerHdrStep_ne_fault {size : Word32} : containerHdrStep size s ≠ .fault f := by
  intro h
  unfold containerHdrStep at h
  split at h
  · split at h <;> cases h
  · cases h

theorem engineStep_fault {g : Bytes → Nat → Answer} (h : engineStep c g s = .fault f) : ExecFault s f := by
  unfold engineStep at h
  split at h
  case isFalse => cases h
  case isTrue ready =>
    split at h
    case isTrue =>
      split at h <;> cases h
      exact .unwritten
    case isFalse outside =>
      cases h
      exact .sourceBeyondN ready outside

theorem execWith_fault {i : Instr} (h : execWith c i s = .fault f) : ExecFault s f := by
  cases i with
  | nop => exact absurd h nopStep_ne_fault
  | encode => exact absurd h encodeStep_ne_fault
  | decode => exact decodeStep_fault h
  | sniff => exact sniffStep_fault h ▸ .unwritten
  | compress | decompress => exact engineStep_fault h
  | containerHdr size => exact absurd h containerHdrStep_ne_fault

/-- What a byte access of the host stops with (R24, R53, R244). -/
def AccessFault (f : Fault) : Prop := f = .inByteHasNoValue ∨ f = .outByteHasNoValue ∨ f = .noSuchIndex

theorem readByte_fault {space : Space} {i : Nat} {k : Byte → State} (h : readByte c space i s k = .fault f) :
    AccessFault f := by
  unfold readByte at h
  repeat' split at h
  all_goals cases h
  all_goals simp [AccessFault]

theorem writeByte_fault {space : Space} {i : Nat} {b : Byte} (h : writeByte c space i b s = .fault f) :
    AccessFault f := by
  unfold writeByte at h
  repeat' split at h
  all_goals cases h
  exact .inr (.inr rfl)

/-- An access of the host that stops is a byte access, or a START whose command does. -/
theorem hostAccess_fault {op : HostOp} (h : hostAccess c (execWith c) op s = .fault f) :
    AccessFault f ∨ ExecFault s f := by
  cases op with
  | wr reg value =>
    simp only [hostAccess] at h
    split at h
    · unfold writeCtrl at h
      split at h
      · exact .inr (execWith_fault h)
      · cases h
    · unfold writeReg at h
      repeat' split at h
      all_goals cases h
  | wb | copyWrite =>
    rw [hostAccess] at h
    exact .inl (writeByte_fault h)
  | rb | copyRead =>
    rw [hostAccess] at h
    exact .inl (readByte_fault h)
  | rd | resetPin | wait | ifMatch | ifOk | copyback => cases h

/-- The schedule and the script have no part in what an instruction stops with. -/
theorem ExecFault.of_takeTurn {script : List HostOp} (h : ExecFault { s.takeTurn with script := script } f) :
    ExecFault s f := by
  cases h with
  | unwritten => exact .unwritten
  | sizeBeyondN phase present beyond => exact .sizeBeyondN phase present beyond
  | sourceBeyondN ready outside => exact .sourceBeyondN ready outside

/-- A step that stops is a byte access or an instruction that does, or a busy framer with no agent able to move. -/
theorem stepWith_fault (h : stepWith c s = .fault f) :
    AccessFault f ∨ ExecFault s f ∨ pick s = none ∧ s.busy = true := by
  unfold stepWith stepBy at h
  split at h
  · exact .inr (.inl (execWith_fault h).of_takeTurn)
  · exact .inr (.inl (execWith_fault h).of_takeTurn)
  · unfold hostTurn at h
    split at h
    · cases h
    · exact (hostAccess_fault h).imp_right fun stops => .inl stops.of_takeTurn
  · rename_i nobody
    split at h
    · rename_i busy
      exact .inr (.inr ⟨nobody, busy⟩)
    · cases h

/-! ## What the invariants exclude -/

/-- Under the invariants D2_SIZE and the engine read IN below N only (R44). -/
theorem ExecFault.eq_inByteHasNoValue (inv : FramerInv s) (fits : Fits c s) (h : ExecFault s f) :
    f = .inByteHasNoValue := by
  cases h with
  | unwritten => rfl
  | sizeBeyondN phase present beyond =>
    obtain ⟨cursor, -⟩ := fits.n_of_d2 phase
    rw [sizeIsPresent_iff, cursor] at present
    simp only [hdrLen, magicLen, sizeLen] at beyond present
    omega
  | sourceBeyondN ready outside =>
    obtain ⟨outstanding, -⟩ := (engineReady_iff s).1 ready
    refine absurd ((insideInput_iff _ _ _).2 ?_) outside
    obtain phase | phase := s.phase.waits_iff.1 (inv.req_iff.1 outstanding)
    · obtain ⟨off, len, -⟩ := fits.req_of_e5 phase
      omega
    · obtain ⟨off, len, -⟩ := fits.req_of_d4 phase
      omega

/-- A phase belongs to a command unless it is IDLE or DONE (R72). -/
theorem Phase.command_isSome_iff (p : Phase) : p.command.isSome = true ↔ p ≠ .idle ∧ p ≠ .done := by
  cases p <;> decide

/-- A busy framer that waits without a response has a request outstanding (R155), which is the engine's to answer. -/
theorem FramerInv.ready_of_busy (inv : FramerInv s) (busy : s.busy = true) :
    framerReady s = true ∨ engineReady s = true := by
  by_cases blocked : s.phase.waits = true ∧ s.bcRsp.valid = false
  · obtain ⟨waits, unanswered⟩ := blocked
    exact .inr ((engineReady_iff s).2 ⟨inv.req_iff.2 waits, unanswered⟩)
  · have command := s.phase.command_isSome_iff.2 (inv.busy_iff.1 busy)
    refine .inl ((framerReady_iff s).2 ⟨busy, command, fun waits => ?_⟩)
    exact (Bool.not_eq_false _).mp fun unanswered => blocked ⟨waits, unanswered⟩

theorem ready_of_defaultAgent_eq_none (h : defaultAgent s = none) (a : Agent) : ¬ready s a = true := by
  unfold defaultAgent at h
  split at h
  · cases h
  split at h
  · cases h
  split at h
  · cases h
  cases a <;> assumption

/-- Where nobody moves, no agent has a step. -/
theorem ready_of_pick_eq_none (h : pick s = none) (a : Agent) : ¬ready s a = true := by
  unfold pick at h
  split at h
  · exact ready_of_defaultAgent_eq_none h a
  · split at h
    · cases h
    · exact ready_of_defaultAgent_eq_none h a

/-- Under the invariant a step stops with a byte access or an instruction that does. -/
theorem FramerInv.stepWith_fault (inv : FramerInv s) (h : stepWith c s = .fault f) : AccessFault f ∨ ExecFault s f := by
  obtain access | exec | ⟨nobody, busy⟩ := Machine.stepWith_fault h
  · exact .inl access
  · exact .inr exec
  · exact ((inv.ready_of_busy busy).elim (ready_of_pick_eq_none nobody .framer)
      (ready_of_pick_eq_none nobody .engine)).elim

end Faults

/-- Settles O37: neither fault is one of a byte access or, under the invariants, of an instruction. -/
theorem aBusyFramerIsNeverStuck : Obligations.ABusyFramerIsNeverStuck := by
  intro c s inv
  refine ⟨inv.ready_of_busy, fun stuck => ?stuck, fun fits beyond => ?beyond⟩
  case stuck =>
    obtain access | exec := inv.stepWith_fault stuck
    · simp [AccessFault] at access
    · cases exec
  case beyond =>
    obtain access | exec := inv.stepWith_fault beyond
    · simp [AccessFault] at access
    · cases exec.eq_inByteHasNoValue inv fits

end Sys2Proof.Machine

/-! PROOFS. PHASE moves only along the table of R171 (O38): each move of the framer is one row, and START and reset are the rows
of the host. -/

namespace Sys2Proof.Machine

section Edges

variable {c : Config} {s t : State}

/-- Each move of the framer is a row of R171. -/
theorem FramerMove.sequencerEdge (fits : Fits c s) (move : FramerMove c s.takeTurn t) : SequencerEdge s t := by
  cases move with
  | e1 p eq =>
    by_cases fit : s.n ≤ sizeMax
    · rw [e1Size_of_le (s := s.takeTurn) fit] at eq
      exact .e1Fits p fit (eq ▸ rfl)
    · rw [e1Size_of_gt (s := s.takeTurn) (Nat.not_le.1 fit)] at eq
      exact .e1Overflow p (Nat.not_le.1 fit) (eq ▸ rfl) (eq ▸ rfl)
  | e2 p eq => exact .e2 p (eq ▸ rfl)
  | e3 p eq => exact .e3 p (eq ▸ rfl)
  | e4 p eq =>
    by_cases empty : s.n = 0
    · rw [e4Empty_of_eq_zero (s := s.takeTurn) empty] at eq
      exact .e4Empty p empty (eq ▸ rfl) (eq ▸ rfl)
    · rw [e4Empty_of_ne_zero (s := s.takeTurn) empty] at eq
      exact .e4Data p empty (eq ▸ rfl)
  | e5c p eq => exact .e5Post p (eq ▸ rfl)
  | e5w p answered eq =>
    cases fail : s.bcRsp.fail with
    | true =>
      rw [e5Wait_of_fail (s := s.takeTurn) answered fail] at eq
      exact .e5Fail p answered fail (eq ▸ rfl) (eq ▸ rfl)
    | false =>
      rw [e5Wait_of_ok (s := s.takeTurn) answered fail] at eq
      exact .e5Ok p answered fail (eq ▸ rfl) (eq ▸ rfl)
  | d1Bad p differs eq => exact .d1Bad p differs (eq ▸ rfl) (eq ▸ rfl)
  | d1Good p matched eq => exact .d1Good p matched (eq ▸ rfl)
  | d2Short p absent eq =>
    obtain ⟨cursor, -⟩ := fits.takeTurn.n_of_d2 p
    rw [sizeIsPresent_eq_false_iff, cursor] at absent
    exact .d2Short p absent (eq ▸ rfl) (eq ▸ rfl)
  | d2Present p present below size field eq =>
    obtain ⟨cursor, -⟩ := fits.takeTurn.n_of_d2 p
    rw [sizeIsPresent_iff, cursor] at present
    exact .d2Present p present (eq ▸ rfl)
  | d3 p eq =>
    by_cases zero : s.size = 0
    · rw [d3Empty_of_eq_zero (s := s.takeTurn) zero] at eq
      exact .d3Zero p zero (eq ▸ rfl) (eq ▸ rfl)
    · rw [d3Empty_of_ne_zero (s := s.takeTurn) zero] at eq
      exact .d3Data p zero (eq ▸ rfl)
  | d4c p eq => exact .d4Post p (eq ▸ rfl)
  | d4w p answered eq =>
    cases fail : s.bcRsp.fail with
    | true =>
      rw [d4Wait_of_fail (s := s.takeTurn) answered fail] at eq
      exact .d4Fail p answered fail (eq ▸ rfl) (eq ▸ rfl)
    | false =>
      by_cases len : s.bcRsp.len = s.size.toNat
      · rw [d4Wait_of_ok (s := s.takeTurn) answered fail len] at eq
        exact .d4Ok p answered fail len (eq ▸ rfl) (eq ▸ rfl)
      · rw [d4Wait_of_mismatch (s := s.takeTurn) answered fail len] at eq
        exact .d4Mismatch p answered fail len (eq ▸ rfl) (eq ▸ rfl)
  | s1 p b found eq => exact .s1 p (eq ▸ rfl) (eq ▸ rfl)

/-- A framer that is not busy is at IDLE or at DONE (R31). -/
theorem FramerInv.phase_of_idle (inv : FramerInv s) (idle : s.busy = false) : s.phase = .idle ∨ s.phase = .done := by
  by_contra running
  exact Bool.false_ne_true (idle.symm.trans (inv.busy_iff.2 (not_or.1 running)))

/-- START takes the row of the command in CMD (R168). -/
theorem StartMove.hostEdge (phase : s.phase = .idle ∨ s.phase = .done) (move : StartMove s t) : HostEdge s t := by
  cases move with
  | nop code eq => exact .nop phase code (eq ▸ rfl)
  | encode code eq => exact .encode phase code (eq ▸ rfl)
  | decode code eq => exact .decode phase code (eq ▸ rfl)
  | sniff code eq => exact .sniff phase code (eq ▸ rfl)

/-- Of the host's accesses START and reset alone move PHASE (R171). -/
theorem HostMove.phase_or_hostEdge (inv : FramerInv s) (move : HostMove c s t) :
    t.phase = s.phase ∨ HostEdge s t := by
  cases move with
  | quiet script replies eq => exact .inl (eq ▸ rfl)
  | cmd code eq => exact .inl (eq ▸ rfl)
  | inLen v fits eq => exact .inl (eq ▸ rfl)
  | inByte idle i b inside script eq => exact .inl (eq ▸ rfl)
  | start idle eq => exact .inr ((start_moves idle eq).hostEdge (inv.phase_of_idle idle))
  | reset eq => exact .inr (.reset (eq ▸ rfl))

/-- The rows of the host do not look at the schedule or the script. -/
theorem HostEdge.of_takeTurn {script : List HostOp} (edge : HostEdge { s.takeTurn with script := script } t) :
    HostEdge s t := by
  cases edge with
  | nop phase code dest => exact .nop phase code dest
  | encode phase code dest => exact .encode phase code dest
  | decode phase code dest => exact .decode phase code dest
  | sniff phase code dest => exact .sniff phase code dest
  | reset dest => exact .reset dest

end Edges

/-- Settles O38: one clause for each agent's move of `StepMove`, and one for nobody's. -/
theorem phaseMovesOnlyAlongTheTable : Obligations.PhaseMovesOnlyAlongTheTable := by
  intro c s t inv fits h
  cases step_moves h with
  | framer who ready move =>
    simp only [who, forall_const, Option.some.injEq, reduceCtorEq, false_imp_iff, and_true]
    exact move.sequencerEdge fits
  | engine who ready inside src read eq =>
    simp only [who, forall_const, Option.some.injEq, reduceCtorEq, false_imp_iff, and_true, true_and]
    rw [eq, State.answer_phase, State.takeTurn_phase]
  | host who op rest next move =>
    simp only [who, forall_const, Option.some.injEq, reduceCtorEq, false_imp_iff, and_true, true_and]
    have inv' : FramerInv { s.takeTurn with script := rest } :=
      { inv with running_cleared := fun busy => { inv.running_cleared busy with } }
    exact (move.phase_or_hostEdge inv').imp_right HostEdge.of_takeTurn
  | idle who idle eq =>
    simp only [who, forall_const, reduceCtorEq, false_imp_iff, true_and]
    exact eq

end Sys2Proof.Machine

/-! PROOFS. The properties of 46_properties.md of the commands as functions (O46 to O51, O54): the forms of an input and of a
failure that they speak of, and the case of ENCODE or DECODE each of them is. -/

namespace Sys2Proof.Machine

section FunctionProperties

variable {c : Config} {d b : Bytes} {k : ErrorKind}

/-- ENCODE fails where the input is too long or the compressor fails, and in no other way (R100). -/
theorem encodeFn_eq_err (h : encodeFn c d = .err k) :
    (sizeMax < d.length ∧ k = .sizeOverflow) ∨
      ∃ e, c.compressBlock d (c.compressBound d.length) = .fail e ∧ k = .compressionFailed e := by
  unfold encodeFn at h
  split at h
  case isTrue tooLong =>
    cases h
    exact .inl ⟨tooLong, rfl⟩
  case isFalse =>
    split at h
    case isTrue => cases h
    case isFalse =>
      split at h
      case h_1 e fail =>
        cases h
        exact .inr ⟨e, fail, rfl⟩
      case h_2 => cases h

/-- Without one of the two failures ENCODE has an output. -/
theorem encodeFn_ok_of_compress_ne_fail (fits : d.length ≤ sizeMax)
    (noFail : ∀ e, c.compressBlock d (c.compressBound d.length) ≠ .fail e) : ∃ b, encodeFn c d = .ok b := by
  cases result : encodeFn c d with
  | ok b => exact ⟨b, rfl⟩
  | err k =>
    obtain ⟨tooLong, -⟩ | ⟨e, fail, -⟩ := encodeFn_eq_err result
    · exact absurd fits (Nat.not_le.2 tooLong)
    · exact absurd fail (noFail e)

/-- DECODE's failures (R120): a mismatch is of two different counts, the expected one not 0 (R202). -/
inductive DecodeFailure : ErrorKind → Prop where
  | format : DecodeFailure .invalidFormat
  | decompressor (e : Nat) : DecodeFailure (.decompressionFailed e)
  | mismatch (expected : Word32) (actual : Nat) (differs : actual ≠ expected.toNat) (nonzero : expected ≠ 0) :
      DecodeFailure (.sizeMismatch expected actual)

theorem decodeFailure_of_decodeFn (h : decodeFn c b = .err k) : DecodeFailure k := by
  unfold decodeFn at h
  split at h
  case isTrue =>
    cases h
    exact .format
  case isFalse =>
    split at h
    case h_1 =>
      cases h
      exact .format
    case h_2 size _ =>
      split at h
      case isTrue => cases h
      case isFalse nonzero =>
        split at h
        case h_1 e _ =>
          cases h
          exact .decompressor e
        case h_2 w _ =>
          split at h
          case isTrue => cases h
          case isFalse differs =>
            cases h
            exact .mismatch size w.length differs nonzero

/-- Under BC-VALID (R151) DECODE gives back what ENCODE was given: the header declares its length, the Payload decompresses to it. -/
theorem decodeFn_of_encodeFn (valid : c.Valid) (h : encodeFn c d = .ok b) : decodeFn c b = .ok d := by
  obtain ⟨fits, payload, rfl, -, ofNonempty⟩ := encodeFn_eq_ok h
  have declared : (trunc32 d.length).toNat = d.length := toNat_trunc32 fits
  by_cases empty : d.length = 0
  · obtain rfl := List.length_eq_zero_iff.1 empty
    exact decodeFn_of_zero c payload
  · have nonzero : trunc32 d.length ≠ 0 := fun zero => empty (by rw [← declared, zero]; rfl)
    have decompresses := valid d _ payload (ofNonempty empty)
    exact decodeFn_of_decompressed nonzero (declared.symm ▸ decompresses) declared.symm

end FunctionProperties

/-- Settles O46: with a Payload by BC-VALID, and without one by the zero size. -/
theorem decodeUndoesEncode : Obligations.DecodeUndoesEncode := fun _ _ _ => decodeFn_of_encodeFn

/-- Settles O47: the twelve bytes are the header of length 0, and no function of the collaborator is called. -/
theorem theEmptyInputIsTwelveBytes : Obligations.TheEmptyInputIsTwelveBytes := fun c =>
  ⟨encodeFn_nil c, decodeFn_of_zero c []⟩

/-- Settles O48: an output of ENCODE is a header and a Payload, empty where the input is. -/
theorem theHeaderDoesNotDependOnTheCodec : Obligations.TheHeaderDoesNotDependOnTheCodec := by
  intro c d b h
  obtain ⟨-, payload, rfl, ofEmpty, -⟩ := encodeFn_eq_ok h
  rw [length_header_append]
  refine ⟨rfl, Nat.le_add_right _ _, fun empty => ?_, ?_⟩
  · rw [ofEmpty empty]
    rfl
  · rw [List.append_assoc]
    exact (sniffFn_eq_true_iff _).2 ⟨_, rfl⟩

/-- Settles O49: SNIFF is 1 only where Magic begins the input, and where it is 0 DECODE rejects in stage 1. -/
theorem aWrongMagicIsRejected : Obligations.AWrongMagicIsRejected := by
  intro c b differs
  have unmatched : sniffFn b = false := Bool.eq_false_iff.2 fun matched => differs ((sniffFn_eq_true_iff b).1 matched)
  exact ⟨decodeFn_of_not_sniffFn c unmatched, unmatched⟩

/-- Settles O50: the Magic passes stage 1 of DECODE, which then finds no size field. -/
theorem aTruncatedSizeFieldIsRejected : Obligations.ATruncatedSizeFieldIsRejected := fun c t short =>
  ⟨decodeFn_of_truncated c short, (sniffFn_eq_true_iff _).2 ⟨t, rfl⟩⟩

/-- Settles O51: the length test is the last of DECODE, behind a header that declares a size other than 0. -/
theorem aWrongLengthIsASizeMismatch : Obligations.AWrongLengthIsASizeMismatch := fun _ _ _ _ => decodeFn_of_mismatch

/-- Settles O54: the failures of each function, and ENCODE's output where the compressor does not fail at the bound, which under
BC-BOUND a success above the bound excludes. -/
theorem encodeSucceedsWhereTheCompressorDoes : Obligations.EncodeSucceedsWhereTheCompressorDoes := by
  intro c d
  refine ⟨fun k err => ?encodeErrors, fun k err => ?decodeErrors, fun fits neverFails => ?total, ?bound⟩
  case encodeErrors =>
    obtain ⟨-, kind⟩ | ⟨e, -, kind⟩ := encodeFn_eq_err err
    · exact .inl kind
    · exact .inr ⟨e, kind⟩
  case decodeErrors =>
    cases decodeFailure_of_decodeFn err with
    | format => exact .inl rfl
    | decompressor e => exact .inr (.inl ⟨e, rfl⟩)
    | mismatch expected actual differs nonzero => exact .inr (.inr ⟨expected, actual, rfl, differs, nonzero⟩)
  case total => exact encodeFn_ok_of_compress_ne_fail fits (neverFails d _)
  case bound =>
    rintro law fits ⟨cap, p, room, ok⟩
    obtain ⟨q, atBound⟩ := compress_ok_at_bound law room ok
    exact encodeFn_ok_of_compress_ne_fail fits fun e fail => by cases atBound.symm.trans fail

end Sys2Proof.Machine

/-! PROOFS. How a command can end (O29, O30): every step that sets DONE is a completion, and a failure completion is one of the
command's own errors. -/

namespace Sys2Proof.Machine

section Endings

variable {c : Config} {s t : State}

/-- The errors a command can end in (R187, R200). -/
inductive OwnError : Instr → Status → Prop where
  | tooLong : OwnError .encode .sizeOverflow
  | compressor : OwnError .encode .compressionFailed
  | format : OwnError .decode .invalidFormat
  | decompressor : OwnError .decode .decompressionFailed
  | mismatch : OwnError .decode .sizeMismatch

/-- What a completion in `t` leaves of the command whose phase `s` is in (R170, R206). -/
inductive Ending (s t : State) : Prop where
  | success (status : t.status = .ok)
  | failure (i : Instr) (command : s.phase.command = some i) (own : OwnError i t.status) (hidden : t.outLen = 0)

/-- A move of the framer that sets DONE ends the command. -/
theorem FramerMove.ending (move : FramerMove c s t) (running : s.done = false) (done : t.done = true) : Ending s t := by
  have goesOn (same : t.done = s.done) : Ending s t := by
    rw [done, running] at same
    cases same
  cases move with
  | e1 p eq =>
    by_cases fits : s.n ≤ sizeMax
    · rw [e1Size_of_le fits] at eq
      exact goesOn (eq ▸ rfl)
    · rw [e1Size_of_gt (Nat.not_le.1 fits)] at eq
      exact .failure .encode (p ▸ rfl) (eq ▸ .tooLong) (eq ▸ rfl)
  | e4 p eq =>
    by_cases empty : s.n = 0
    · rw [e4Empty_of_eq_zero empty] at eq
      exact .success (eq ▸ rfl)
    · rw [e4Empty_of_ne_zero empty] at eq
      exact goesOn (eq ▸ rfl)
  | e5w p answered eq =>
    cases fail : s.bcRsp.fail with
    | true =>
      rw [e5Wait_of_fail answered fail] at eq
      exact .failure .encode (p ▸ rfl) (eq ▸ .compressor) (eq ▸ rfl)
    | false =>
      rw [e5Wait_of_ok answered fail] at eq
      exact .success (eq ▸ rfl)
  | d3 p eq =>
    by_cases zero : s.size = 0
    · rw [d3Empty_of_eq_zero zero] at eq
      exact .success (eq ▸ rfl)
    · rw [d3Empty_of_ne_zero zero] at eq
      exact goesOn (eq ▸ rfl)
  | d4w p answered eq =>
    cases fail : s.bcRsp.fail with
    | true =>
      rw [d4Wait_of_fail answered fail] at eq
      exact .failure .decode (p ▸ rfl) (eq ▸ .decompressor) (eq ▸ rfl)
    | false =>
      by_cases len : s.bcRsp.len = s.size.toNat
      · rw [d4Wait_of_ok answered fail len] at eq
        exact .success (eq ▸ rfl)
      · rw [d4Wait_of_mismatch answered fail len] at eq
        exact .failure .decode (p ▸ rfl) (eq ▸ .mismatch) (eq ▸ rfl)
  | d1Bad p _ eq | d2Short p _ eq => exact .failure .decode (p ▸ rfl) (eq ▸ .format) (eq ▸ rfl)
  | s1 p b found eq => exact .success (eq ▸ rfl)
  | e2 p eq | e3 p eq | e5c p eq | d1Good p _ eq | d2Present p _ _ _ _ eq | d4c p eq => exact goesOn (eq ▸ rfl)

/-- While BUSY the host does not set DONE. -/
theorem HostMove.not_done (move : HostMove c s t) (busy : s.busy = true) (running : s.done = false) : t.done = false := by
  cases move with
  | quiet _ _ eq | cmd _ eq | inLen _ _ eq => exact eq ▸ running
  | inByte idle | start idle => rw [busy] at idle; cases idle
  | reset eq => exact eq ▸ rfl

/-- Only the sequencer sets DONE while a command runs. -/
theorem ending_of_stepWith (busy : s.busy = true) (running : s.done = false) (step : stepWith c s = .next t)
    (done : t.done = true) : Ending s t := by
  cases step_moves step with
  | framer who ready move =>
    cases move.ending running done with
    | success status => exact .success status
    | failure i command own hidden => exact .failure i command own hidden
  | engine who ready inside src read eq =>
    rw [eq, State.answer_done, State.takeTurn_done, running] at done
    cases done
  | host who op rest next move => cases (move.not_done busy running).symm.trans done
  | idle who idle => rw [busy] at idle; cases idle

/-- With OUT_LEN 0 the exposed output is the empty one (R53). -/
theorem exposedOutput_of_outLen_eq_zero (done : t.done = true) (outLen : t.outLen = 0) : exposedOutput t = some [] := by
  rw [exposedOutput, if_pos done, outLen, Memory.readBytes_zero]

end Endings

/-- Settles O29: the failure completion sets OUT_LEN to 0. -/
theorem aFailedCommandExposesNothing : Obligations.AFailedCommandExposesNothing := by
  intro c s t busy running step done failed
  cases ending_of_stepWith busy running step done with
  | success status => exact absurd status failed
  | failure i command own hidden => exact ⟨hidden, exposedOutput_of_outLen_eq_zero done hidden⟩

/-- Settles O30: by the command the phase belongs to, and its own errors. -/
theorem eachCommandFailsOnlyItsOwnWay : Obligations.EachCommandFailsOnlyItsOwnWay := by
  intro c s t inv step busy done
  cases ending_of_stepWith busy (inv.running busy).done step done with
  | success status => simp [status]
  | failure i command own hidden =>
    generalize t.status = status at own
    rw [command]
    cases own with
    | tooLong | compressor | format | decompressor | mismatch => simp

end Sys2Proof.Machine

/-! PROOFS. Two runs on one input (O44), and the round trip on the machine (O45): the end of a run is the command's function of the
input, by O40 to O42. -/

namespace Sys2Proof.Machine

section RunResults

variable {c : Config} {s u t : State} {k : Nat}

/-- NOP is complete in its first step (R169), without output. -/
theorem observe_of_nop (idle : s.busy = false) (start : execWith c .nop s = .next u) (ends : EndsAfter c k u t) :
    observe t = observedResult (.ok []) := by
  have launched : execWith c .nop s = .next ((s.launch 0 .done).complete 0) := if_neg (by simp [idle])
  obtain rfl := Host.Outcome.next.inj (start.symm.trans launched)
  obtain ⟨run, -, busy⟩ := ends
  cases k with
  | zero =>
    obtain rfl := Host.Outcome.next.inj run
    exact observe_complete (RunsOn.launch s 0 .done).cleared (w := []) rfl
  | succ k =>
    obtain ⟨v, first, stillBusy⟩ := busy 0 k.succ_pos
    obtain rfl := Host.Outcome.next.inj first
    cases stillBusy

/-- What the host observes at the end of a command on the input `b` (R107, R126, R140, R169). The other instructions are no commands
and have no run of their own; they stand beside NOP, which has no result either. -/
def commandResult (c : Config) (b : Bytes) : Instr → Observed
  | .encode => observedResult (encodeFn c b)
  | .decode => observedResult (decodeFn c b)
  | .sniff => { observedResult (.ok []) with matched := sniffFn b }
  | .nop | .compress | .decompress | .containerHdr _ => observedResult (.ok [])

/-- However a run of a command goes, what it ends with is a function of the input. -/
theorem observe_eq_commandResult {i : Instr} {b : Bytes} (command : i = .nop ∨ i = .encode ∨ i = .decode ∨ i = .sniff)
    (idle : s.busy = false) (length : s.inLen = b.length) (read : s.inp.readBytes 0 b.length = some b)
    (start : execWith c i s = .next u) (ends : EndsAfter c k u t) : observe t = commandResult c b i := by
  obtain rfl | rfl | rfl | rfl := command
  · exact observe_of_nop idle start ends
  · exact (aRunOfEncodeComputesEncode c s u t k idle start ends).1 b length read
  · exact aRunOfDecodeComputesDecode c s u t k b idle start ends length read
  · exact aRunOfSniffComputesSniff c s u t k b idle start ends length read

/-- The registers tell a success from a failure, and with it show the whole output (R173). -/
theorem eq_ok_of_observe {r : Result} (result : observe t = observedResult r) (status : t.status = .ok) :
    ∃ w, r = .ok w := by
  cases r with
  | ok w => exact ⟨w, rfl⟩
  | err kind => exact absurd ((congrArg Observed.status result).symm.trans status) kind.status_ne_ok

theorem exposes_of_observe {w : Bytes} (result : observe t = observedResult (.ok w)) :
    t.status = .ok ∧ t.outLen = w.length ∧ exposedOutput t = some w :=
  ⟨congrArg Observed.status result, congrArg Observed.outLen result, congrArg Observed.output result⟩

end RunResults

/-- Settles O44: both results are the command's function of the one input. -/
theorem theResultDependsOnTheInputAlone : Obligations.TheResultDependsOnTheInputAlone := by
  intro c i s s' u u' t t' k k' b command idle idle' length length' read read' start start' ends ends'
  calc observe t
    _ = commandResult c b i := observe_eq_commandResult command idle length read start ends
    _ = observe t' := (observe_eq_commandResult command idle' length' read' start' ends').symm

/-- Settles O45: the output of the first run is ENCODE(d), which DECODE undoes (O46). -/
theorem theMachineRoundTrips : Obligations.TheMachineRoundTrips := by
  intro c s u t s' u' t' k k' d valid idle length read start ends status idle' length' read' start' ends'
  have encoded := (aRunOfEncodeComputesEncode c s u t k idle start ends).1 d length read
  obtain ⟨b, result⟩ := eq_ok_of_observe encoded status
  rw [result] at encoded
  obtain ⟨-, outLen, output⟩ := exposes_of_observe encoded
  have sameLength : s'.inLen = b.length := length'.trans outLen
  rw [sameLength, output] at read'
  have decoded := aRunOfDecodeComputesDecode c s' u' t' k' b idle' start' ends' sameLength read'
  rw [decodeFn_of_encodeFn valid result] at decoded
  exact exposes_of_observe decoded

end Sys2Proof.Machine

/-! PROOFS. Every step of the sequencer and the engine brings the end of a command nearer (O39): what each move does to the bound on
the steps left. -/

namespace Sys2Proof.Machine

section StepsLeft

variable {c : Config} {s t : State}

theorem stepsLeft_of_done (done : t.phase = .done) : stepsLeft t = 0 := by
  rw [stepsLeft, done]

/-- The bound looks at PHASE and at the response alone. -/
theorem stepsLeft_congr (phase : t.phase = s.phase) (rsp : t.bcRsp = s.bcRsp) : stepsLeft t = stepsLeft s := by
  rw [stepsLeft, stepsLeft, phase, rsp]

/-- In a wait phase the sequencer's own step is left, and before it the engine's if there is no response yet (R106, R125). -/
theorem stepsLeft_of_waits (waits : s.phase.waits = true) : stepsLeft s = if s.bcRsp.valid then 1 else 2 := by
  obtain p | p := s.phase.waits_iff.1 waits <;> rw [stepsLeft, p]

theorem stepsLeft_le_two_of_waits (waits : s.phase.waits = true) : stepsLeft s ≤ 2 := by
  rw [stepsLeft_of_waits waits]
  split <;> decide

theorem stepsLeft_le_seven (s : State) : stepsLeft s ≤ 7 := by
  cases p : s.phase
  case e5Wait | d4Wait => exact (stepsLeft_le_two_of_waits (p ▸ rfl)).trans (by decide)
  all_goals simp [stepsLeft, p]

/-- With a response E5_WAIT and D4_WAIT complete, whatever it says (R106, R125). -/
theorem e5Wait_phase (answered : s.bcRsp.valid = true) : (e5Wait s).phase = .done := by
  cases fail : s.bcRsp.fail with
  | true => rw [e5Wait_of_fail answered fail, State.raise_phase]
  | false => rw [e5Wait_of_ok answered fail, State.complete_phase]

theorem d4Wait_phase (answered : s.bcRsp.valid = true) : (d4Wait s).phase = .done := by
  cases fail : s.bcRsp.fail with
  | true => rw [d4Wait_of_fail answered fail, State.raise_phase]
  | false =>
    by_cases len : s.bcRsp.len = s.size.toNat
    · rw [d4Wait_of_ok answered fail len, State.complete_phase]
    · rw [d4Wait_of_mismatch answered fail len, State.raise_phase]

/-- Each move of the framer ends the command or goes on to the next phase of R171. -/
theorem FramerMove.stepsLeft_lt (move : FramerMove c s t) : stepsLeft t < stepsLeft s := by
  have ends (running : 0 < stepsLeft s) (done : t.phase = .done) : stepsLeft t < stepsLeft s :=
    stepsLeft_of_done done ▸ running
  have posts (left : stepsLeft s = 3) (waits : t.phase.waits = true) : stepsLeft t < stepsLeft s :=
    left ▸ Nat.lt_succ_of_le (stepsLeft_le_two_of_waits waits)
  cases move with
  | e1 p eq =>
    by_cases fits : s.n ≤ sizeMax
    · rw [e1Size_of_le fits] at eq
      simp [stepsLeft, p, eq]
    · rw [e1Size_of_gt (Nat.not_le.1 fits)] at eq
      simp [stepsLeft, p, eq]
  | e2 p eq => simp [stepsLeft, p, eq, e2Alloc]
  | e3 p eq => simp [stepsLeft, p, eq, e3Hdr]
  | e4 p eq =>
    by_cases empty : s.n = 0
    · rw [e4Empty_of_eq_zero empty] at eq
      simp [stepsLeft, p, eq]
    · rw [e4Empty_of_ne_zero empty] at eq
      simp [stepsLeft, p, eq]
  | d3 p eq =>
    by_cases zero : s.size = 0
    · rw [d3Empty_of_eq_zero zero] at eq
      simp [stepsLeft, p, eq]
    · rw [d3Empty_of_ne_zero zero] at eq
      simp [stepsLeft, p, eq]
  | d1Bad p _ eq | d2Short p _ eq | d1Good p _ eq | d2Present p _ _ _ _ eq | s1 p _ _ eq => simp [stepsLeft, p, eq]
  | e5c p eq | d4c p eq => exact posts (by rw [stepsLeft, p]) (eq ▸ rfl)
  | e5w p answered eq => exact ends (by simp [stepsLeft, p, answered]) (eq ▸ e5Wait_phase answered)
  | d4w p answered eq => exact ends (by simp [stepsLeft, p, answered]) (eq ▸ d4Wait_phase answered)

/-- The engine's answer leaves the sequencer's own step. -/
theorem stepsLeft_answer_lt (waits : s.phase.waits = true) (unanswered : s.bcRsp.valid = false) (a : Answer) :
    stepsLeft (s.answer c a) < stepsLeft s := by
  have waits' : (s.answer c a).phase.waits = true := by rwa [State.answer_phase]
  rw [stepsLeft_of_waits waits, stepsLeft_of_waits waits', unanswered, State.answer_bcRsp_valid]
  decide

/-- While BUSY the host moves neither PHASE nor the port, but by reset, after which the framer is not busy (R165, R230). -/
theorem HostMove.stepsLeft_eq (move : HostMove c s t) (busy : s.busy = true) (stillBusy : t.busy = true) :
    stepsLeft t = stepsLeft s := by
  cases move with
  | quiet _ _ eq | cmd _ eq | inLen _ _ eq => exact stepsLeft_congr (eq ▸ rfl) (eq ▸ rfl)
  | inByte idle | start idle => cases busy.symm.trans idle
  | reset eq => rw [eq] at stillBusy; cases stillBusy

end StepsLeft

/-- Settles O39: one lemma for each agent's move; the engine moves in a wait phase alone, by the invariant. -/
theorem everyStepBringsTheEndNearer : Obligations.EveryStepBringsTheEndNearer := by
  intro c s t inv step
  refine ⟨stepsLeft_le_seven s, ?_⟩
  cases step_moves step with
  | framer who ready move => exact ⟨fun _ => move.stepsLeft_lt, fun other => nomatch who.symm.trans other⟩
  | engine who ready inside src read eq =>
    obtain ⟨outstanding, unanswered⟩ := (engineReady_iff s).1 ready
    have waits : s.takeTurn.phase.waits = true := inv.req_iff.1 outstanding
    exact ⟨fun _ => eq ▸ stepsLeft_answer_lt waits unanswered _, fun other => nomatch who.symm.trans other⟩
  | host who op rest next move =>
    exact ⟨by simp [who], fun _ => move.stepsLeft_eq⟩
  | idle who idle => simp [who]

end Sys2Proof.Machine

/-! PROOFS. Every command ends (O43): what a running command keeps where the host does not step in, that its next step always exists,
and that the bound of O39 ends the run. -/

namespace Sys2Proof.Machine

section CommandsEnd

variable {c : Config} {s t u : State}

/-! ## Runs that end -/

theorem endsAfter_zero (done : t.phase = .done) : EndsAfter c 0 t t := ⟨rfl, done, nofun⟩

/-- A step before a run that ends. -/
theorem EndsAfter.cons {k : Nat} (ends : EndsAfter c k u t) (busy : s.busy = true) (step : stepWith c s = .next u) :
    EndsAfter c (k + 1) s t := by
  obtain ⟨run, done, allBusy⟩ := ends
  have onward (j : Nat) : runWith c (j + 1) s = runWith c j u := by rw [runWith, step]
  refine ⟨(onward k).trans run, done, fun j below => ?_⟩
  cases j with
  | zero => exact ⟨s, rfl, busy⟩
  | succ j =>
    rw [onward]
    exact allBusy j (Nat.lt_of_succ_lt_succ below)

/-- Where every state of a running command has a step that is nearer the end, the run ends within the bound. -/
theorem exists_endsAfter {P : State → Prop} (busy : ∀ s, P s → s.busy = true)
    (progress : ∀ s, P s → ∃ t, stepWith c s = .next t ∧ stepsLeft t < stepsLeft s ∧ (t.phase = .done ∨ P t))
    (start : P s) : ∃ k t, k ≤ stepsLeft s ∧ EndsAfter c k s t := by
  induction left : stepsLeft s using Nat.strong_induction_on generalizing s with
  | _ bound ih =>
    obtain ⟨u, step, nearer, done | running⟩ := progress s start
    · exact ⟨1, u, by omega, (endsAfter_zero done).cons (busy s start) step⟩
    · obtain ⟨k, t, within, ends⟩ := ih (stepsLeft u) (left ▸ nearer) running rfl
      exact ⟨k + 1, t, by omega, ends.cons (busy s start) step⟩

/-! ## A command the host leaves alone -/

/-- Nothing names the host before the framer and the engine: the model's default schedule (log 1), or a host with no access left. -/
def HostWaits (s : State) : Prop := s.turns = [] ∨ s.script = []

/-- The framer or the engine moves where one of them can. -/
theorem HostWaits.pick (waits : HostWaits s) (able : framerReady s = true ∨ engineReady s = true) :
    pick s = some .framer ∨ pick s = some .engine := by
  have default : defaultAgent s = some .framer ∨ defaultAgent s = some .engine := by
    unfold defaultAgent
    by_cases framer : ready s .framer = true
    · exact .inl (if_pos framer)
    · have engine : ready s .engine = true := able.resolve_left framer
      rw [if_neg framer, if_pos engine]
      exact .inr rfl
  unfold Machine.pick
  split
  case h_1 => exact default
  case h_2 a rest turns =>
    split
    case isFalse => exact default
    case isTrue canMove =>
      obtain noTurns | noScript := waits
      · cases turns.symm.trans noTurns
      · cases a with
        | framer => exact .inl rfl
        | engine => exact .inr rfl
        | host => simp [ready, noScript] at canMove

/-- What every step of a running command keeps where the host waits and the input is written. -/
structure LeftAlone (s : State) : Prop where
  busy : s.busy = true
  hostWaits : HostWaits s
  input : ∃ b, s.inp.readBytes 0 s.n = some b

/-- A command under way, left alone: what the phase it is in adds, that its further steps rest on. -/
structure Underway (s : State) : Prop extends LeftAlone s where
  command : s.phase.command.isSome = true := by rfl
  /-- D1_MAGIC leaves the cursor behind Magic (R121). -/
  cursor : s.phase = .d2Size → s.inPos = magicLen := by nofun
  /-- D2_SIZE has found the header below N (R122). -/
  header : s.phase = .d3Empty ∨ s.phase = .d4Decomp → hdrLen ≤ s.n := by nofun
  /-- A request is outstanding in the wait phases alone, and for bytes below N (R105, R124, R155). -/
  port : s.bcReq.valid = s.phase.waits := by rfl
  source : s.phase.waits = true → s.bcReq.srcOff + s.bcReq.srcLen ≤ s.n := by nofun

theorem Underway.launch (waits : HostWaits s) (input : ∃ b, s.inp.readBytes 0 s.inLen = some b) (code : BitVec 2)
    {first : Phase} (starts : first = .e1Size ∨ first = .d1Magic ∨ first = .s1Magic) :
    Underway (s.launch code first) := by
  have alone : LeftAlone (s.launch code first) := ⟨rfl, waits, input⟩
  obtain rfl | rfl | rfl := starts
  · exact { alone with }
  · exact { alone with }
  · exact { alone with }

theorem Underway.takeTurn (run : Underway s) : Underway s.takeTurn :=
  { run with hostWaits := run.hostWaits.imp_left fun none => by rw [State.takeTurn_turns, none, List.tail_nil] }

/-- A move of the framer completes the command or leaves it under way in its next phase (R171). -/
theorem FramerMove.keeps_underway (run : Underway s) (move : FramerMove c s t) : t.phase = .done ∨ Underway t := by
  have alone := run.toLeftAlone
  have quiet (noWait : s.phase.waits = false) : s.bcReq.valid = false := run.port.trans noWait
  cases move with
  | e1 p eq =>
    by_cases fits : s.n ≤ sizeMax
    · rw [e1Size_of_le fits] at eq
      exact .inr (eq ▸ { alone with port := quiet (p ▸ rfl) })
    · rw [e1Size_of_gt (Nat.not_le.1 fits)] at eq
      exact .inl (eq ▸ rfl)
  | e2 p eq | e3 p eq => exact .inr (eq ▸ { alone with port := quiet (p ▸ rfl) })
  | e4 p eq =>
    by_cases empty : s.n = 0
    · rw [e4Empty_of_eq_zero empty] at eq
      exact .inl (eq ▸ rfl)
    · rw [e4Empty_of_ne_zero empty] at eq
      exact .inr (eq ▸ { alone with port := quiet (p ▸ rfl) })
  | e5c p eq => exact .inr (eq ▸ { alone with source := fun _ => (Nat.zero_add s.n).le })
  | d1Good p found eq => exact .inr (eq ▸ { alone with cursor := fun _ => rfl, port := quiet (p ▸ rfl) })
  | d2Present p present below size field eq =>
    exact .inr (eq ▸ { alone with header := fun _ => below, port := quiet (p ▸ rfl) })
  | d3 p eq =>
    by_cases zero : s.size = 0
    · rw [d3Empty_of_eq_zero zero] at eq
      exact .inl (eq ▸ rfl)
    · rw [d3Empty_of_ne_zero zero] at eq
      exact .inr (eq ▸ { alone with header := fun _ => run.header (.inl p), port := quiet (p ▸ rfl) })
  | d4c p eq =>
    exact .inr (eq ▸ { alone with source := fun _ => (Nat.add_sub_cancel' (run.header (.inr p))).le })
  | d1Bad p _ eq | d2Short p _ eq | s1 p _ _ eq => exact .inl (eq ▸ rfl)
  | e5w p answered eq => exact .inl (eq ▸ e5Wait_phase answered)
  | d4w p answered eq => exact .inl (eq ▸ d4Wait_phase answered)

/-- The engine writes OUT and the response, on neither of which the next step rests. -/
theorem Underway.answer (run : Underway s) (a : Answer) : Underway (s.answer c a) := by
  cases a with
  | ok w => exact { run with }
  | fail e => exact { run with }

/-! ## Its next step -/

theorem magicMatch_of_written (input : ∃ b, s.inp.readBytes 0 s.n = some b) :
    ∃ found, magicMatch s.inp s.n = some found := by
  obtain ⟨b, read⟩ := input
  obtain ⟨length, -⟩ := (Memory.readBytes_eq_some_iff _ _ _ _).1 read
  rw [← length] at read ⊢
  exact ⟨sniffFn b, magicMatch_eq_sniffFn read⟩

theorem sizeAt_of_written (input : ∃ b, s.inp.readBytes 0 s.n = some b) (below : hdrLen ≤ s.n) :
    ∃ size, sizeAt s.inp = some size := by
  obtain ⟨b, read⟩ := input
  obtain ⟨length, -⟩ := (Memory.readBytes_eq_some_iff _ _ _ _).1 read
  have four : s.inp.readBytes magicLen sizeLen = some ((b.drop magicLen).take sizeLen) :=
    Memory.readBytes_sub read magicLen sizeLen below
  have long : ¬((b.drop magicLen).take sizeLen).length ≤ 3 := by
    simp only [List.length_take, List.length_drop, length, magicLen, sizeLen, hdrLen] at below ⊢
    omega
  have present := mt (sizeField_eq_none_iff _).1 long
  obtain ⟨size, field⟩ := Option.ne_none_iff_exists'.1 present
  exact ⟨size, by simp only [sizeAt, four, field]⟩

theorem Underway.exists_d2Size (run : Underway s) (p : s.phase = .d2Size) : ∃ t, d2Size s = .next t := by
  cases present : sizeIsPresent s with
  | false => exact ⟨_, d2Size_of_absent present⟩
  | true =>
    have below : hdrLen ≤ s.n := by
      rw [sizeIsPresent_iff, run.cursor p] at present
      simp only [magicLen, sizeLen, hdrLen] at present ⊢
      omega
    obtain ⟨size, field⟩ := sizeAt_of_written run.input below
    exact ⟨_, d2Size_of_present present below field⟩

/-- On a written input no phase stops (R244). -/
theorem Underway.exists_exec {i : Instr} (run : Underway s) (belongs : s.phase.command = some i) :
    ∃ t, execWith c i s = .next t := by
  have busy := run.busy
  obtain ⟨found, magic⟩ := magicMatch_of_written run.input
  cases p : s.phase <;> rw [p] at belongs <;> cases belongs
  case e1Size => exact ⟨_, encodeStep_of_e1Size busy p⟩
  case e2Alloc => exact ⟨_, encodeStep_of_e2Alloc busy p⟩
  case e3Hdr => exact ⟨_, encodeStep_of_e3Hdr busy p⟩
  case e4Empty => exact ⟨_, encodeStep_of_e4Empty busy p⟩
  case e5Comp => exact ⟨_, encodeStep_of_e5Comp busy p⟩
  case e5Wait => exact ⟨_, encodeStep_of_e5Wait busy p⟩
  case d1Magic =>
    have step : execWith c .decode s = d1Magic s := decodeStep_of_d1Magic busy p
    rw [step]
    cases found with
    | false => exact ⟨_, d1Magic_of_mismatch magic⟩
    | true => exact ⟨_, d1Magic_of_match magic⟩
  case d2Size =>
    have step : execWith c .decode s = d2Size s := decodeStep_of_d2Size busy p
    rw [step]
    exact run.exists_d2Size p
  case d3Empty => exact ⟨_, decodeStep_of_d3Empty busy p⟩
  case d4Decomp => exact ⟨_, decodeStep_of_d4Decomp busy p⟩
  case d4Wait => exact ⟨_, decodeStep_of_d4Wait busy p⟩
  case s1Magic => exact ⟨_, (sniffStep_of_s1Magic busy p).trans (s1Magic_of_match magic)⟩

/-- The engine reads its source below N, where the input is written. -/
theorem Underway.exists_engineStep (run : Underway s) (ready : engineReady s = true) (f : Bytes → Nat → Answer) :
    ∃ t, engineStep c f s = .next t := by
  obtain ⟨outstanding, -⟩ := (engineReady_iff s).1 ready
  have below := run.source (run.port.symm.trans outstanding)
  obtain ⟨b, read⟩ := run.input
  have source := Memory.readBytes_sub read s.bcReq.srcOff s.bcReq.srcLen below
  rw [Nat.zero_add] at source
  exact ⟨_, engineStep_of_read ready ((insideInput_iff _ _ _).2 (.inr below)) source⟩

/-- The sequencer or the engine always has the next step (R173). -/
theorem Underway.ready (run : Underway s) : framerReady s = true ∨ engineReady s = true := by
  by_cases blocked : s.phase.waits = true ∧ s.bcRsp.valid = false
  · obtain ⟨waits, unanswered⟩ := blocked
    exact .inr ((engineReady_iff s).2 ⟨run.port.trans waits, unanswered⟩)
  · refine .inl ((framerReady_iff s).2 ⟨run.busy, run.command, fun waits => ?_⟩)
    exact (Bool.not_eq_false _).mp fun unanswered => blocked ⟨waits, unanswered⟩

theorem Underway.exists_step (run : Underway s) : ∃ t, stepWith c s = .next t := by
  obtain who | who := run.hostWaits.pick run.ready
  · obtain ⟨i, belongs⟩ := Option.isSome_iff_exists.1 run.command
    have step : stepWith c s = execWith c i s.takeTurn :=
      (stepBy_of_framer who).trans (framer_runs_its_command run.busy belongs)
    rw [step]
    exact run.takeTurn.exists_exec belongs
  · have step : stepWith c s = execWith c (engineInstr s) s.takeTurn := stepBy_of_engine who
    rw [step, engineInstr, decodePortOp]
    split
    · exact run.takeTurn.exists_engineStep (pick_ready who) c.compressBlock
    · exact run.takeTurn.exists_engineStep (pick_ready who) c.decompressBlock

/-- Every step of a command under way is one of the sequencer or the engine, and brings the end nearer. -/
theorem Underway.progress (run : Underway s) :
    ∃ t, stepWith c s = .next t ∧ stepsLeft t < stepsLeft s ∧ (t.phase = .done ∨ Underway t) := by
  obtain ⟨t, step⟩ := run.exists_step (c := c)
  refine ⟨t, step, ?_⟩
  have agent := run.hostWaits.pick run.ready
  cases step_moves step with
  | framer who ready move => exact ⟨move.stepsLeft_lt, move.keeps_underway run.takeTurn⟩
  | engine who ready inside src read eq =>
    obtain ⟨outstanding, unanswered⟩ := (engineReady_iff s).1 ready
    have waits : s.takeTurn.phase.waits = true := run.port.symm.trans outstanding
    exact eq ▸ ⟨stepsLeft_answer_lt waits unanswered _, .inr (run.takeTurn.answer _)⟩
  | host who | idle who => simp [who] at agent

/-- A command under way ends within seven steps (R247). -/
theorem Underway.exists_endsAfter (run : Underway s) : ∃ t k, k ≤ 7 ∧ EndsAfter c k s t := by
  obtain ⟨k, t, within, ends⟩ :=
    Machine.exists_endsAfter (c := c) (fun _ run => run.busy) (fun _ => Underway.progress) run
  exact ⟨t, k, within.trans (stepsLeft_le_seven s), ends⟩

/-- An ENCODE above SIZE_MAX ends at E1_SIZE and reads no byte (R101). -/
theorem endsAfter_of_tooLong (waits : HostWaits s) (tooLong : sizeMax < s.inLen) :
    ∃ t, EndsAfter c 1 (s.launch 1 .e1Size) t := by
  have agent : pick (s.launch 1 .e1Size) = some .framer := by
    refine (HostWaits.pick (s := s.launch 1 .e1Size) waits (.inl rfl)).resolve_right fun who => ?_
    cases pick_ready who
  have step : stepWith c (s.launch 1 .e1Size) = .next ((s.launch 1 .e1Size).takeTurn.raise .sizeOverflow) := by
    calc stepWith c (s.launch 1 .e1Size)
      _ = execWith c .encode (s.launch 1 .e1Size).takeTurn := stepBy_of_framer agent
      _ = .next (e1Size (s.launch 1 .e1Size).takeTurn) := encodeStep_of_e1Size (c := c) rfl rfl
      _ = .next ((s.launch 1 .e1Size).takeTurn.raise .sizeOverflow) := congrArg _ (e1Size_of_gt tooLong)
  exact ⟨_, (endsAfter_zero rfl).cons rfl step⟩

end CommandsEnd

/-- Settles O43: NOP ends as it starts, ENCODE of too long an input with its first step, and every other command is under way. -/
theorem everyCommandEnds : Obligations.EveryCommandEnds := by
  intro c i s command idle waits input
  have runs (written : ∃ b, s.inp.readBytes 0 s.inLen = some b) (code : BitVec 2) {first : Phase}
      (starts : first = .e1Size ∨ first = .d1Magic ∨ first = .s1Magic)
      (launched : execWith c i s = .next (s.launch code first)) :
      ∃ u t k, k ≤ 7 ∧ execWith c i s = .next u ∧ EndsAfter c k u t := by
    obtain ⟨t, k, within, ends⟩ := (Underway.launch waits written code starts).exists_endsAfter
    exact ⟨_, t, k, within, launched, ends⟩
  obtain rfl | rfl | rfl | rfl := command
  · exact ⟨_, _, 0, Nat.zero_le 7, nopStep_of_idle idle, endsAfter_zero rfl⟩
  · have launched : execWith c .encode s = .next (s.launch 1 .e1Size) := encodeStep_of_idle idle
    obtain written | other | ⟨-, tooLong⟩ := input
    · exact runs written 1 (.inl rfl) launched
    · cases other
    · obtain ⟨t, ends⟩ := endsAfter_of_tooLong waits tooLong
      exact ⟨_, t, 1, by decide, launched, ends⟩
  · exact runs (by simpa using input) 2 (.inr (.inl rfl)) (decodeStep_of_idle idle)
  · exact runs (by simpa using input) 3 (.inr (.inr rfl)) (sniffStep_of_idle idle)

end Sys2Proof.Machine

/-! PROOFS. Reset as a move from any state (O32), and a placed word of the opcode table (O7): whose turn each kind of word is placed
for, and what that agent reads from it. -/

namespace Sys2Proof.Machine

/-- Settles O32: the host's turn is `State.resetMove` (R230, R232). -/
theorem resetIsAMoveFromAnyState : Obligations.ResetIsAMoveFromAnyState := fun _ _ => step_of_host

section PlacedWords

variable {s : State} {i : Instr}

theorem pick_of_turn {a : Agent} {rest : List Agent} (turn : s.turns = a :: rest) (able : ready s a = true) :
    pick s = some a := by
  simp only [pick, turn, able, if_true]

/-- An instruction read from a table word is decoded from the word's format (log 15). -/
theorem decodeTableWord_eq_some {nbits w : Nat} (h : decodeTableWord nbits w = some i) :
    ∃ e, encodedOfTableWord nbits w = some e ∧ decode e = .ok i := by
  unfold decodeTableWord at h
  split at h
  case h_1 => cases h
  case h_2 e found =>
    split at h <;> cases h
    exact ⟨e, found, ‹_›⟩

theorem length_headerOfTableWord (w : Nat) : (headerOfTableWord w).length = hdrLen := by
  unfold headerOfTableWord
  split <;> simp [bytesLowFirst, bytesHighFirst]

/-- A table word read as a Container is a header of 12 bytes and nothing more (R60). -/
theorem length_of_encodedOfTableWord {nbits w : Nat} {bytes : Bytes}
    (h : encodedOfTableWord nbits w = some (.container bytes)) : bytes.length = hdrLen := by
  unfold encodedOfTableWord at h
  repeat' split at h
  all_goals cases h
  exact length_headerOfTableWord w

/-- CMD holds the bits the decoder looks at (R70, R75). -/
theorem decodeCommand_setWidth_extractLsb' (word : Word32) :
    decodeCommand ((word.extractLsb' 0 2).setWidth 32) = decodeCommand word := by
  have kept : ((word.extractLsb' 0 2).setWidth 32).extractLsb' 0 2 = word.extractLsb' 0 2 := by
    generalize word.extractLsb' 0 2 = code
    revert code
    decide
  rw [decodeCommand, decodeCommand, kept]

/-- The host's START is next, and CMD holds the word (R166). -/
theorem step_withCommand (s : State) (word : Word32) :
    step (s.withCommand word) = exec (decodeCommand word) { s.withCommand word with turns := s.turns, script := s.script } := by
  obtain ⟨host, -⟩ := aStepRunsTheDecodedInstruction
  rw [← decodeCommand_setWidth_extractLsb' word]
  exact host (s.withCommand word) 1 s.script _ (pick_of_turn rfl rfl) rfl rfl rfl rfl

/-- The engine's turn is next, and BC_REQ.op is the word (R152). -/
theorem step_withPortOp (s : State) (op : BitVec 1) :
    step (s.withPortOp op) = exec (decodePortOp op) { s.withPortOp op with turns := s.turns } := by
  obtain ⟨-, engine, -⟩ := aStepRunsTheDecodedInstruction
  exact engine (s.withPortOp op) _ (pick_of_turn rfl rfl) rfl

/-- The framer's turn is next, at D2_SIZE of an input that begins with the header (R122). -/
theorem step_withHeader (s : State) {bytes : Bytes} (length : bytes.length = hdrLen)
    (decoded : decode (.container bytes) = .ok i) :
    step (s.withHeader bytes) = exec i { s.withHeader bytes with turns := s.turns } := by
  obtain ⟨-, -, -, header⟩ := aStepRunsTheDecodedInstruction
  have read : (s.withHeader bytes).inp.readBytes 0 hdrLen = some bytes := by
    rw [← length]
    exact Memory.readBytes_writeBytes s.inp 0 bytes
  exact header (s.withHeader bytes) bytes i (pick_of_turn rfl rfl) rfl rfl le_rfl read decoded

end PlacedWords

/-- Settles O7: one clause of O6 for each of the three formats. -/
theorem aPlacedTableWordRunsNext : Obligations.APlacedTableWordRunsNext := by
  intro s nbits w i decoded
  obtain ⟨e, found, decoded⟩ := decodeTableWord_eq_some decoded
  have placed : s.withFetchWord nbits w = s.withEncoded e := by rw [State.withFetchWord, found]
  rw [placed]
  cases e with
  | cmd word =>
    cases decoded
    exact step_withCommand s word
  | portOp op =>
    cases decoded
    exact step_withPortOp s op
  | container bytes => exact step_withHeader s (length_of_encodedOfTableWord found) decoded

end Sys2Proof.Machine
